-- ==== Sys2Proof/Word.lean ====
section
/-! DEFINITION. The widths of the block's values (spec 00_scope.md R7, R10; 10_state.md R21 to R30). Every value is
unsigned; bit 0 is the least significant bit. -/

namespace Sys2Proof

/-- A payload byte, a ROM byte, an 8-bit counter. -/
abbrev Byte := BitVec 8

/-- A bus word: DC in bit 8, the payload in bits 7:0 (R7, R71). -/
abbrev BusWord := BitVec 9

/-- A host operation code `op[2:0]` (R73). -/
abbrev HostCode := BitVec 3

/-- A response status code `rsp_status[2:0]` (R75). -/
abbrev StatusCode := BitVec 3

/-- The sequencer's code, 4 bits (R22). -/
abbrev SeqCode := BitVec 4

/-- A Script ROM address (R23, R50). -/
abbrev RomAddr := BitVec 16

/-- A mode register's address (R30). -/
abbrev ModeAddr := BitVec 4

/-- A mode register's value, and STATUS (R28, R30). -/
abbrev Half := BitVec 16

end Sys2Proof
end

