-- ==== Sys2Proof/Config.lean ====
section
/-! DEFINITION. What is fixed when the block is built: the OPEN parameters of spec 00_scope.md R6, as plain data. The
fixed parameters, the Script ROM image and the checks of 42_register_script.md are in Machine/Params.lean; the
unconstrained configuration of the reset state is in Machine/Build.lean. -/

namespace Sys2Proof

/-- A script step: a command byte and the data bytes written after it (R13, R76). -/
structure ScriptStep where
  cmd  : Byte
  data : List Byte
deriving DecidableEq, Repr

/-- `BANK_MAGIC[0..3]`: the fixed first four data bytes of a bank-select step (R6, R77). -/
structure BankMagic where
  b0 : Byte
  b1 : Byte
  b2 : Byte
  b3 : Byte
deriving DecidableEq, Repr

/-- The OPEN parameters of R6. A value of this type need not be a valid configuration: `Config.valid` says which are. -/
structure Config where
  /-- `T_RST_MS`, the length of the reset pulse in milliseconds. -/
  tRstMs        : Nat
  /-- `ERR_W`, the width in bits of the collaborators' error values. -/
  errW          : Nat
  /-- `SCRIPT`, the Register Script (R9). -/
  script        : List ScriptStep
  slpoutCmd     : Byte
  disponCmd     : Byte
  colmodCmd     : Byte
  colmodArg     : Byte
  bankselCmd    : Byte
  bankMagic     : BankMagic
  bank0Sel      : Byte
  bank1Sel      : Byte
  modeBusFormat : Half
  modeSyncFlags : Half
deriving DecidableEq, Repr

end Sys2Proof
end

