-- ==== Sys2Proof/Machine/Params.lean ====
section
/-! DEFINITION. The fixed parameters (spec 00_scope.md R6), the Script ROM image (20_memory.md R51) and the named checks
a SCRIPT must pass (42_register_script.md R160 to R167). -/

namespace Sys2Proof

/-! ### Fixed parameters (R6) -/

/-- `T_PWR_MS` (R6). -/
def tPwrMs : Nat := 120
/-- `T_POSTRST_MS` (R6). -/
def tPostRstMs : Nat := 120
/-- `T_SLPOUT_MS` (R6). -/
def tSlpoutMs : Nat := 120
/-- `T_FINAL_MS` (R6). -/
def tFinalMs : Nat := 120
/-- `BANK_OFF_SEL` (R6, R77). -/
def bankOffSel : Byte := 0x00#8

/-! ### The Script ROM image (R51, R76) -/

/-- `entry((cmd, [d_0, …]))` = `[cmd, n, d_0, …]` (R51). -/
def ScriptStep.entry (st : ScriptStep) : List Byte :=
  st.cmd :: BitVec.ofNat 8 st.data.length :: st.data

/-- `image(SCRIPT)`: the entries in script order (R51). -/
def scriptImage : List ScriptStep → List Byte
  | [] => []
  | st :: rest => st.entry ++ scriptImage rest

/-- The number of bytes the entries take: the sum of `2 + n_i` (R51). -/
def scriptSize : List ScriptStep → Nat
  | [] => 0
  | st :: rest => (2 + st.data.length) + scriptSize rest

namespace Config

/-- `N_STEPS` (R6). -/
def nSteps (c : Config) : Nat := c.script.length

/-- `SCRIPT_BYTES` (R51). -/
def scriptBytes (c : Config) : Nat := scriptSize c.script

/-- `base_i`: where step `i` starts in the ROM (R51). -/
def stepBase (c : Config) (i : Nat) : Nat := scriptSize (c.script.take i)

/-- `BANK(i)`: the bank-select step for bank index `idx` (R77). -/
def bankStep (c : Config) (idx : Byte) : ScriptStep :=
  { cmd := c.bankselCmd, data := [c.bankMagic.b0, c.bankMagic.b1, c.bankMagic.b2, c.bankMagic.b3, idx] }

/-- `(COLMOD_CMD, [COLMOD_ARG])` (R165). -/
def colmodStep (c : Config) : ScriptStep := { cmd := c.colmodCmd, data := [c.colmodArg] }

/-- `(DISPON_CMD, [])` (R166). -/
def disponStep (c : Config) : ScriptStep := { cmd := c.disponCmd, data := [] }

end Config

/-! ### The script checks (R160 to R167) -/

/-- The indices, counted from `start`, of the steps that satisfy `p`. -/
def indicesWhere (p : ScriptStep → Bool) : Nat → List ScriptStep → List Nat
  | _, [] => []
  | start, st :: rest => if p st then start :: indicesWhere p (start + 1) rest else indicesWhere p (start + 1) rest

/-- The named checks of 42_register_script.md. -/
inductive ScriptCheck
  | chkLength       -- R160
  | chkBankForm     -- R161
  | chkBank0First   -- R162
  | chkBank1Once    -- R163
  | chkBankOff      -- R164
  | chkColmod       -- R165
  | chkDisponLast   -- R166
  | chkBankCount    -- R167
deriving DecidableEq, Repr

namespace Config

/-- The indices of the steps with `cmd` = `BANKSEL_CMD`. -/
def bankselIndices (c : Config) : List Nat :=
  indicesWhere (fun st => st.cmd == c.bankselCmd) 0 c.script

/-- The indices of the steps that are `BANK(BANK1_SEL)`. -/
def bank1Indices (c : Config) : List Nat :=
  indicesWhere (fun st => decide (st = c.bankStep c.bank1Sel)) 0 c.script

/-- R160: 5 ≤ N_STEPS ≤ 255, each step has at most 255 data bytes, SCRIPT_BYTES ≤ 65535. -/
def chkLength (c : Config) : Bool :=
  decide (5 ≤ c.nSteps) && decide (c.nSteps ≤ 255)
    && c.script.all (fun st => decide (st.data.length ≤ 255)) && decide (c.scriptBytes ≤ 65535)

/-- R161: every step with BANKSEL_CMD is one of the three bank-select steps. -/
def chkBankForm (c : Config) : Bool :=
  c.script.all (fun st => !(st.cmd == c.bankselCmd)
    || decide (st = c.bankStep c.bank0Sel) || decide (st = c.bankStep c.bank1Sel)
    || decide (st = c.bankStep bankOffSel))

/-- R162: step 0 is `BANK(BANK0_SEL)`. -/
def chkBank0First (c : Config) : Bool := decide (c.script[0]? = some (c.bankStep c.bank0Sel))

/-- R163: exactly one step, at index j, is `BANK(BANK1_SEL)`, and 1 ≤ j ≤ N_STEPS − 4. -/
def chkBank1Once (c : Config) : Bool :=
  match c.bank1Indices with
  | [j] => decide (1 ≤ j) && decide (j + 4 ≤ c.nSteps)
  | _ => false

/-- R164: step N_STEPS − 3 is `BANK(BANK_OFF_SEL)`. -/
def chkBankOff (c : Config) : Bool := decide (c.script.reverse[2]? = some (c.bankStep bankOffSel))

/-- R165: step N_STEPS − 2 is the COLMOD step. -/
def chkColmod (c : Config) : Bool := decide (c.script.reverse[1]? = some c.colmodStep)

/-- R166: step N_STEPS − 1 is the DISPON step, with no data bytes. -/
def chkDisponLast (c : Config) : Bool := decide (c.script.reverse[0]? = some c.disponStep)

/-- R167: the steps with BANKSEL_CMD are exactly those at 0, j and N_STEPS − 3; the three selects are distinct, and
neither COLMOD_CMD nor DISPON_CMD is BANKSEL_CMD. -/
def chkBankCount (c : Config) : Bool :=
  c.bank1Indices.any (fun j => decide (c.bankselIndices = [0, j, c.nSteps - 3]))
    && decide (c.bank0Sel ≠ c.bank1Sel) && decide (c.bank0Sel ≠ bankOffSel) && decide (c.bank1Sel ≠ bankOffSel)
    && decide (c.colmodCmd ≠ c.bankselCmd) && decide (c.disponCmd ≠ c.bankselCmd)

end Config

/-- Whether a configuration passes one named check. -/
def ScriptCheck.passes (c : Config) : ScriptCheck → Bool
  | .chkLength     => c.chkLength
  | .chkBankForm   => c.chkBankForm
  | .chkBank0First => c.chkBank0First
  | .chkBank1Once  => c.chkBank1Once
  | .chkBankOff    => c.chkBankOff
  | .chkColmod     => c.chkColmod
  | .chkDisponLast => c.chkDisponLast
  | .chkBankCount  => c.chkBankCount

/-- All checks, in the order of their rules. -/
def ScriptCheck.all : List ScriptCheck :=
  [.chkLength, .chkBankForm, .chkBank0First, .chkBank1Once, .chkBankOff, .chkColmod, .chkDisponLast, .chkBankCount]

namespace Config

/-- Every check that fails, not only the first (95_test_vectors.md L2.3). -/
def failedChecks (c : Config) : List ScriptCheck := ScriptCheck.all.filter (fun k => !(k.passes c))

/-- The bounds R6 puts on the numeric OPEN parameters. -/
def paramsInRange (c : Config) : Bool :=
  decide (30 ≤ c.tRstMs) && decide (c.tRstMs ≤ 119) && decide (1 ≤ c.errW)

/-- A valid configuration (R6, R9): the parameters are in range and every script check passes. -/
def valid (c : Config) : Bool := c.paramsInRange && c.failedChecks.isEmpty

end Config
end Sys2Proof
end

