-- ==== Sys2Proof/Machine/Build.lean ====
section
/-! DEFINITION. Building the block (spec 00_scope.md R6, R9; 70_reset_and_hazards.md R253): only a valid configuration can
be built, and which valid configuration this block has is left open. -/

namespace Sys2Proof

/-- A configuration that passes every check of R160 to R167 and the bounds of R6. (The default field values only show that
such a configuration exists; nothing evaluates them.) -/
structure ValidConfig where
  val : Config :=
    { tRstMs := 30, errW := 1, slpoutCmd := 1, disponCmd := 2, colmodCmd := 3, colmodArg := 0, bankselCmd := 4,
      bankMagic := ⟨0, 0, 0, 0⟩, bank0Sel := 1, bank1Sel := 2, modeBusFormat := 0, modeSyncFlags := 0,
      script := [⟨4, [0, 0, 0, 0, 1]⟩, ⟨4, [0, 0, 0, 0, 2]⟩, ⟨4, [0, 0, 0, 0, 0]⟩, ⟨3, [0]⟩, ⟨2, []⟩] }
  ok  : val.valid = true := by decide
deriving Inhabited

/-- The configuration this block was built with: some valid one, and nothing more is known of it (log 9). -/
opaque Config.build : ValidConfig

/-- Building the block from given parameters: refused unless every check passes (R9). -/
def Config.buildFrom (c : Config) : Option ValidConfig :=
  if h : c.valid = true then some { val := c, ok := h } else none

end Sys2Proof
end

