-- ==== Sys2Proof/Syntax.lean ====
section
/-! DEFINITION. The instructions of spec/opcode_table.json (00_scope.md R3; 30_encoding.md R70): bus words, host operations
and script-step entries, one constructor per row. -/

namespace Sys2Proof

/-- What the spec calls an instruction (R3). -/
inductive Instr
  /-- `BW.CMD`: a Command word with payload `c` (R72, R100). -/
  | bwCmd (c : Byte)
  /-- `BW.DATA`: a Data word with payload `d` (R72, R101). -/
  | bwData (d : Byte)
  /-- `PREPARE`, op 0b001 (R182). -/
  | prepare
  /-- `ENABLE`, op 0b010 (R188). -/
  | enable
  /-- `DISABLE`, op 0b011 (R189). -/
  | disable
  /-- `UNPREPARE`, op 0b100 (R190). -/
  | unprepare
  /-- `GET_MODES`, op 0b101 (R193). -/
  | getModes
  /-- `RESERVED.OP000` (R74). -/
  | reserved000
  /-- `RESERVED.OP110` (R74). -/
  | reserved110
  /-- `RESERVED.OP111` (R74). -/
  | reserved111
  /-- `STEP`: a script-step entry (R76, R121). -/
  | step (cmd : Byte) (data : List Byte)
  /-- `CMD (pseudo)`: the entry of a bare command (R79, R120). -/
  | cmd (cmd : Byte)
  /-- `BANK (pseudo)`: a bank-select entry (R77, R79). -/
  | bank (idx : Byte)
deriving DecidableEq, Repr

/-- The encoding formats of instructions (R70). -/
inductive Format
  | bw
  | hop
  | step
deriving DecidableEq, Repr

/-- The two kinds of bus word (R13, R72). -/
inductive BusKind
  | command
  | data
deriving DecidableEq, Repr

/-- The five host operations (R73). -/
inductive HostOp
  | prepare
  | enable
  | disable
  | unprepare
  | getModes
deriving DecidableEq, Repr

/-- The format an instruction is encoded in (opcode_table.json). -/
def Instr.format : Instr → Format
  | .bwCmd _ => .bw
  | .bwData _ => .bw
  | .prepare => .hop
  | .enable => .hop
  | .disable => .hop
  | .unprepare => .hop
  | .getModes => .hop
  | .reserved000 => .hop
  | .reserved110 => .hop
  | .reserved111 => .hop
  | .step _ _ => .step
  | .cmd _ => .step
  | .bank _ => .step

end Sys2Proof
end

