-- ==== Sys2Proof/WellFormed.lean ====
section
/-! DEFINITION. Which instruction terms are well formed (spec 30_encoding.md R76, R77). -/

namespace Sys2Proof

/-- The data length fits the `len` byte, 0 ≤ n ≤ 255 (R76). Every other operand is in range by its type. -/
def Instr.lenOk : Instr → Bool
  | .step _ data => decide (data.length ≤ 255)
  | _ => true

/-- The bank index of the BANK form is one of the three that are used (R77, opcode_table.json). -/
def Instr.bankOk (c : Config) : Instr → Bool
  | .bank idx => decide (idx = c.bank0Sel) || decide (idx = c.bank1Sel) || decide (idx = bankOffSel)
  | _ => true

/-- A well-formed instruction. -/
def Instr.wf (c : Config) (i : Instr) : Bool := i.lenOk && i.bankOk c

end Sys2Proof
end

