-- ==== Sys2Proof/Decode.lean ====
section
/-! DEFINITION. Decoding and encoding (spec 30_encoding.md; 40_bus_word_encoder.md R100 to R105). The decoder is total on
any bytes and rejects by name. Bytes of a format: a HOP code is one byte with the code in bits 2:0; a bus word is two
bytes, the payload first, then DC in bit 0 of the second; a STEP entry is its ROM bytes (log 7). -/

namespace Sys2Proof

/-! ### The bus word (R71, R72, R100, R101, R105) -/

/-- The prefix bit DC: Command = 0, Data = 1 (R71). -/
def BusKind.dc : BusKind → BitVec 1
  | .command => 0b0#1
  | .data => 0b1#1

/-- `encode(kind, b) = {DC, b[7:0]}` (R100, R101). -/
def busEncode (k : BusKind) (b : Byte) : BusWord := k.dc ++ b

/-- `decode(w)` = (if `w[8]` = 0 then Command else Data, `w[7:0]`) (R105). -/
def busDecode (w : BusWord) : BusKind × Byte :=
  (if w.getLsbD 8 then .data else .command, w.extractLsb' 0 8)

/-- The instruction a bus word is (R72). -/
def decodeBusWord (w : BusWord) : Instr :=
  match busDecode w with
  | (.command, b) => .bwCmd b
  | (.data, b) => .bwData b

/-! ### The host operation code (R73, R74) -/

/-- The code of a host operation (R73). -/
def HostOp.code : HostOp → HostCode
  | .prepare => 0b001#3
  | .enable => 0b010#3
  | .disable => 0b011#3
  | .unprepare => 0b100#3
  | .getModes => 0b101#3

/-- The instruction a host operation code is: all eight codes (R73, R74). -/
def decodeHostCode (op : HostCode) : Instr :=
  match op.toNat with
  | 0b000 => .reserved000
  | 0b001 => .prepare
  | 0b010 => .enable
  | 0b011 => .disable
  | 0b100 => .unprepare
  | 0b101 => .getModes
  | 0b110 => .reserved110
  | _ => .reserved111

/-! ### The script-step entry (R76, R77, R79) -/

/-- Why bytes are no instruction of a format. -/
inductive Reject
  /-- Fewer bytes than the format needs. -/
  | truncated
  /-- A HOP byte with a bit above bit 2 set. -/
  | notHostCode
  /-- A bus word with a bit above bit 8 set. -/
  | notBusWord
deriving DecidableEq, Repr

/-- Names an entry by its most special form: CMD with no data bytes, BANK with the bank-select bytes, else STEP (R79). -/
def nameEntry (c : Config) (cmd : Byte) (data : List Byte) : Instr :=
  match data with
  | [] => .cmd cmd
  | [m0, m1, m2, m3, idx] =>
    if cmd = c.bankselCmd ∧ m0 = c.bankMagic.b0 ∧ m1 = c.bankMagic.b1 ∧ m2 = c.bankMagic.b2 ∧ m3 = c.bankMagic.b3
    then .bank idx else .step cmd data
  | _ => .step cmd data

/-- One STEP entry from the front of the bytes; its length is known from byte 1 alone (R76). -/
def decodeEntry (c : Config) : List Byte → Except Reject (Instr × List Byte)
  | cmd :: len :: rest =>
    if rest.length < len.toNat then .error .truncated
    else .ok (nameEntry c cmd (rest.take len.toNat), rest.drop len.toNat)
  | _ => .error .truncated

/-- The decoder: one instruction of a format from the front of the bytes, and the rest. -/
def decode (c : Config) (f : Format) (bytes : List Byte) : Except Reject (Instr × List Byte) :=
  match f, bytes with
  | .hop, b :: rest =>
    if b.toNat < 8 then .ok (decodeHostCode (b.extractLsb' 0 3), rest) else .error .notHostCode
  | .bw, lo :: hi :: rest =>
    if hi.toNat < 2 then .ok (decodeBusWord (hi.extractLsb' 0 1 ++ lo), rest) else .error .notBusWord
  | .step, bytes => decodeEntry c bytes
  | _, _ => .error .truncated

/-! ### The encoder -/

/-- A bus word's bytes, payload first. -/
def busWordBytes (w : BusWord) : List Byte := [w.extractLsb' 0 8, (w.extractLsb' 8 1).setWidth 8]

/-- The bytes of an instruction in its own format (R71 to R79). -/
def encode (c : Config) : Instr → List Byte
  | .bwCmd b => busWordBytes (busEncode .command b)
  | .bwData b => busWordBytes (busEncode .data b)
  | .prepare => [HostOp.prepare.code.setWidth 8]
  | .enable => [HostOp.enable.code.setWidth 8]
  | .disable => [HostOp.disable.code.setWidth 8]
  | .unprepare => [HostOp.unprepare.code.setWidth 8]
  | .getModes => [HostOp.getModes.code.setWidth 8]
  | .reserved000 => [0b000#8]
  | .reserved110 => [0b110#8]
  | .reserved111 => [0b111#8]
  | .step cmd data => cmd :: BitVec.ofNat 8 data.length :: data
  | .cmd cmd => [cmd, 0x00#8]
  | .bank idx =>
    [c.bankselCmd, 0x05#8, c.bankMagic.b0, c.bankMagic.b1, c.bankMagic.b2, c.bankMagic.b3, idx]

/-- The name the decoder gives an instruction's bytes: a STEP written with CMD's or BANK's bytes is that pseudo form
(R79); every other instruction is itself. -/
def Instr.canonical (c : Config) : Instr → Instr
  | .step k data => nameEntry c k data
  | i => i

/-! ### Words numbered as opcode_table.json numbers them (log 7) -/

/-- Byte `k` of a table word: bits 8k+7 to 8k. -/
def tableByte (w k : Nat) : Byte := BitVec.ofNat 8 (w >>> (8 * k))

/-- `n` bytes of a table word from byte `k` on. -/
def tableBytes (w : Nat) : (n k : Nat) → List Byte
  | 0, _ => []
  | n + 1, k => tableByte w k :: tableBytes w n (k + 1)

/-- Which format a table word of `nbits` bits is in: HOP rows have 3 bits, BW rows 9, STEP rows whole bytes. -/
def tableFormat (nbits w : Nat) : Format :=
  if nbits ≤ 8 then .hop else if nbits ≤ 16 ∧ w < 512 then .bw else .step

/-- How many bytes the instruction of a table word has: a STEP entry's length is known from byte 1 alone (R76). -/
def tableLength (f : Format) (w : Nat) : Nat :=
  match f with
  | .hop => 1
  | .bw => 2
  | .step => 2 + (tableByte w 1).toNat

/-- The bytes of a table word in a format; bits above those the table numbers are 0. -/
def tableWordBytes (f : Format) (w : Nat) : List Byte := tableBytes w (tableLength f w) 0

/-- The instruction the decoder reads from a table word; bits above `nbits` are 0. -/
def decodeTableWord (nbits w : Nat) : Option Instr :=
  match decode Config.build.val (tableFormat nbits w) (tableWordBytes (tableFormat nbits w) w) with
  | .ok (i, _) => some i
  | .error _ => none

end Sys2Proof
end

