-- ==== Sys2Proof/Machine/Memory.lean ====
section
/-! DEFINITION. The Script ROM as a list of (address, byte) cells (spec 20_memory.md R50 to R52, R56). The block has no
`MemWrite` (00_scope.md R12): memory is read, and loaded once when the block is built. -/

namespace Sys2Proof.Machine

/-- The listed cells of the 16-bit byte space. An address that is not listed is not mapped (R52, R56; log 13). -/
abbrev Memory := List Host.Cell

namespace Memory

/-- The byte at an address, or nothing where the ROM has no such address (R52). -/
def read : Memory → Nat → Option Byte
  | [], _ => none
  | (k, b) :: rest, a => if k = a then some b else read rest a

/-- The cells of a list of bytes that starts at `base`. -/
def ofBytes : Nat → List Byte → Memory
  | _, [] => []
  | base, b :: rest => (base, b) :: ofBytes (base + 1) rest

/-- Every address is at least `lo` and below 2^16, and addresses strictly rise. -/
def risingFrom : Nat → Memory → Bool
  | _, [] => true
  | lo, (k, _) :: rest => decide (lo ≤ k) && decide (k < 65536) && risingFrom (k + 1) rest

/-- The canonical form: strictly rising addresses inside the 16-bit space. No listed byte can equal what an unlisted
address reads as, since an unlisted address reads as nothing. -/
def wf (m : Memory) : Bool := risingFrom 0 m

end Memory

/-- The Script ROM of a configuration: `image(SCRIPT)` from address 0 (R51, R56). -/
def romOf (c : Config) : Memory := Memory.ofBytes 0 (scriptImage c.script)

end Sys2Proof.Machine
end

