-- ==== Sys2Proof/Machine/State.lean ====
section
/-! DEFINITION. The machine's state as plain data (spec 10_state.md), its reset (70_reset_and_hazards.md R250), and the
reasons a step can stop. -/

namespace Sys2Proof.Machine

/-- `lc`, the lifecycle state (R21). -/
inductive Lifecycle
  | unprepared
  | prepared
  | enabled
  | disabled
deriving DecidableEq, Repr

/-- The used values of `seq` (R22). -/
inductive SeqState
  | idle
  | pPwr
  | pDlyPwr
  | pDlyRst
  | pDlyPost
  | xSlp
  | xDlySlp
  | xCmd
  | xData
  | xDlyFin
  | uPwr
deriving DecidableEq, Repr

/-- The response status names (R75). `resErr` is reserved and never produced (R224). -/
inductive Status
  | ok
  | busErr
  | pwrErr
  | seqErr
  | illegalOp
  | resErr
deriving DecidableEq, Repr

/-- A collaborator's answer, `Ok` or `Err(e)` (R34). `e` has `ERR_W` bits: see `Reply.fits` (log 10). -/
inductive Reply
  | ok
  | err (e : Nat)
deriving DecidableEq, Repr

/-- An input event (R34), or block reset (R250, R252; log 12). -/
inductive Event
  | req (op : HostCode)
  | pwrDone (r : Reply)
  | busDone (r : Reply)
  | tick
  | blockReset
deriving DecidableEq, Repr

/-- An output event (R41). `respond` carries `rsp_status`, `rsp_err` and `rsp_nmodes` (R36). -/
inductive OutEvent
  | busXfer (w : BusWord)
  | pwrReq (on : Bool)
  | rstSet (level : Bool)
  | respond (status : StatusCode) (err : Nat) (nmodes : BitVec 2)
deriving DecidableEq, Repr

/-- Why the machine stops with a fault. -/
inductive Fault
  /-- `seq` is outside 0x0 to 0xA (R22, R40). Raised by every step and every meaning in such a state; unreachable. Safe. -/
  | badSeq
  /-- `ScriptOOB`: a Script ROM read at an address that is not mapped (R52). Raised by the executor's header and data
  reads; it cannot happen for a valid configuration. Safe. -/
  | scriptOob
deriving DecidableEq, Repr

/-- Why a step has no meaning. -/
inductive Refusal
  /-- An instruction that has no meaning yet, raised by `exec` alone; no arm does. Safe. -/
  | notModelled (mnemonic : String)
deriving DecidableEq, Repr

/-- The state: the fields of R21 to R27, the read-only stores and parameters, the ghost of R33, and the model's own lists
of inputs and outputs. -/
structure State where
  /-- The build-time parameters (00_scope.md R6, R9); no rule changes them. -/
  cfg        : Config
  /-- The Script ROM (20_memory.md R50, R51); no rule changes it (R60). -/
  rom        : Memory
  /-- `lc` (R21). -/
  lc         : Lifecycle
  /-- `seq` (R22). -/
  seq        : SeqCode
  /-- `step_idx` (R23). -/
  stepIdx    : Byte
  /-- `rom_ptr` (R23). -/
  romPtr     : RomAddr
  /-- `cur_len` (R23). -/
  curLen     : Byte
  /-- `byte_idx` (R23). -/
  byteIdx    : Byte
  /-- `delay_cnt` (R24). -/
  delayCnt   : Byte
  /-- `rst_assert` (R25). -/
  rstAssert  : Bool
  /-- `last_status` (R26). -/
  lastStatus : StatusCode
  /-- `bus_word` (R27). -/
  busWord    : BusWord
  /-- The ghost `ctl_known` (R33); no rule reads it (log 11). -/
  ctlKnown   : Bool
  /-- The inputs still to come, oldest first; held requests stand at their place (R34, R42; log 1). -/
  inbox      : List Event
  /-- `outs`: the outputs of the latest step, in order (R11, R40; log 3). -/
  outs       : List OutEvent
  /-- The observable trace: every output so far, oldest first (R41; log 3). -/
  trace      : List OutEvent
deriving DecidableEq, Repr

/-- The state after block reset of a block built with parameters `c` (R250). -/
def State.resetWith (c : Config) : State :=
  { cfg := c, rom := romOf c, lc := .unprepared, seq := 0x0#4, stepIdx := 0#8, romPtr := 0#16, curLen := 0#8,
    byteIdx := 0#8, delayCnt := 0#8, rstAssert := false, lastStatus := 0b000#3, busWord := 0x000#9, ctlKnown := false,
    inbox := [], outs := [], trace := [] }

/-- The machine right after reset: built with some valid configuration, of which nothing else is known (log 9). -/
def State.reset : State := State.resetWith Config.build.val

end Sys2Proof.Machine
end

