-- ==== Sys2Proof/Machine/Flags.lean ====
section
/-! DEFINITION. The codes the host sees and the STATUS word (spec 10_state.md R21, R22, R28; 30_encoding.md R75). The block
has no other flag (R32). -/

namespace Sys2Proof.Machine

/-- The encoding of `lc` (R21). -/
def Lifecycle.code : Lifecycle → BitVec 2
  | .unprepared => 0b00#2
  | .prepared => 0b01#2
  | .enabled => 0b10#2
  | .disabled => 0b11#2

/-- The response status codes (R75). -/
def Status.code : Status → StatusCode
  | .ok => 0b000#3
  | .busErr => 0b001#3
  | .pwrErr => 0b010#3
  | .seqErr => 0b011#3
  | .illegalOp => 0b100#3
  | .resErr => 0b101#3

/-- The codes of the sequencer states (R22). -/
def SeqState.code : SeqState → SeqCode
  | .idle => 0x0#4
  | .pPwr => 0x1#4
  | .pDlyPwr => 0x2#4
  | .pDlyRst => 0x3#4
  | .pDlyPost => 0x4#4
  | .xSlp => 0x5#4
  | .xDlySlp => 0x6#4
  | .xCmd => 0x7#4
  | .xData => 0x8#4
  | .xDlyFin => 0x9#4
  | .uPwr => 0xA#4

/-- The sequencer state a code stands for; 0xB to 0xF stand for none (R22). -/
def seqOf (c : SeqCode) : Option SeqState :=
  match c.toNat with
  | 0x0 => some .idle
  | 0x1 => some .pPwr
  | 0x2 => some .pDlyPwr
  | 0x3 => some .pDlyRst
  | 0x4 => some .pDlyPost
  | 0x5 => some .xSlp
  | 0x6 => some .xDlySlp
  | 0x7 => some .xCmd
  | 0x8 => some .xData
  | 0x9 => some .xDlyFin
  | 0xA => some .uPwr
  | _ => none

/-- BUSY: `seq` ≠ `IDLE` (R28). -/
def State.busyBit (s : State) : Bool := !(s.seq == SeqState.idle.code)

/-- STATUS = {9 zero bits, RST, LAST[2:0], BUSY, LC[1:0]} (R28). -/
def State.status (s : State) : Half :=
  (0#9 ++ BitVec.ofBool s.rstAssert ++ s.lastStatus ++ BitVec.ofBool s.busyBit ++ s.lc.code : BitVec 16)

end Sys2Proof.Machine
end

