-- ==== Sys2Proof/Machine/Operands.lean ====
section
/-! DEFINITION. Where operands come from: the Script ROM and the mode registers (spec 00_scope.md R12; 10_state.md R30;
20_memory.md R52). The block has no register operands and no immediates (R20, R78). -/

namespace Sys2Proof.Machine

/-- `ScriptRead(a)`: nothing where the address is not mapped (R52). -/
def State.scriptRead (s : State) (a : Nat) : Option Byte := s.rom.read a

/-- The bytes at `n` addresses from `a` on, or nothing if one is not mapped (R52). -/
def Memory.readN (m : Memory) : (a n : Nat) → Option (List Byte)
  | _, 0 => some []
  | a, n + 1 =>
    match m.read a, readN m (a + 1) n with
    | some b, some bs => some (b :: bs)
    | _, _ => none

/-- `ModeRead(a)`: the Mode Descriptor registers (R30). -/
def modeRead (c : Config) (a : ModeAddr) : Half :=
  match a.toNat with
  | 0x0 => 14616#16                 -- CLOCK
  | 0x1 => 480#16                   -- HDISPLAY
  | 0x2 => 512#16                   -- HSYNC_START
  | 0x3 => 523#16                   -- HSYNC_END
  | 0x4 => 525#16                   -- HTOTAL
  | 0x5 => 800#16                   -- VDISPLAY
  | 0x6 => 854#16                   -- VSYNC_START
  | 0x7 => 895#16                   -- VSYNC_END
  | 0x8 => 928#16                   -- VTOTAL
  | 0x9 => 52#16                    -- WIDTH_MM
  | 0xA => 86#16                    -- HEIGHT_MM
  | 0xB => c.modeBusFormat          -- BUS_FORMAT
  | 0xC => 1#16                     -- BUS_FLAGS
  | 0xD => 3#16                     -- MODE_TYPE
  | 0xE => c.modeSyncFlags          -- SYNC_FLAGS
  | _ => 1#16                       -- NMODES, at 0xF

end Sys2Proof.Machine
end

