-- ==== Sys2Proof/Machine/Ops.lean ====
section
/-! DEFINITION. The operations the meanings share: emitting an output, issuing a bus word (spec R102), starting a script step
(R121), starting a delay (R230), ending an operation (`finish`, R225: the analogue of taking an exception and of
returning from one), accepting or holding a host request (R180, R42), and block reset (R250 to R252). -/

namespace Sys2Proof.Machine

/-- What a meaning answers. -/
abbrev Result := Host.Outcome State Fault Refusal

/-- `s.seq <- X` (R12). -/
def State.goto (s : State) (q : SeqState) : State := { s with seq := q.code }

/-- `emit E` (R12, R41): the event joins the step's outputs and the trace. -/
def State.emit (s : State) (e : OutEvent) : State :=
  { s with outs := s.outs ++ [e], trace := s.trace ++ [e] }

/-- A step begins with no outputs (R40). -/
def State.clearOuts (s : State) : State := { s with outs := [] }

/-- The used sequencer state, or the fault of R22. -/
def withSeq (s : State) (k : SeqState → Result) : Result :=
  match seqOf s.seq with
  | none => .fault .badSeq
  | some q => k q

/-- `issue_word(kind, b, X)` (R102). -/
def issueWord (k : BusKind) (b : Byte) (x : SeqState) (s : State) : State :=
  ({ s with busWord := busEncode k b }.emit (.busXfer (busEncode k b))).goto x

/-- `write_command(cmd)` with the caller's wait state (R120). -/
def writeCommand (c : Byte) (x : SeqState) (s : State) : State := issueWord .command c x s

/-- The caller's wait state of a Command word (R102, R120): sleep-out, issued when the post-reset delay ends, waits in
`X_SLP` (R151); every other Command word is the executor's and waits in `X_CMD` (R121). DEDUCED (log 4). -/
def commandWait : SeqState → SeqState
  | .pDlyPost => .xSlp
  | _ => .xCmd

/-- `begin_step` for a header that was read: `c` is the cmd byte, `len` the len byte (R121). -/
def beginStepWith (c len : Byte) (s : State) : State :=
  issueWord .command c .xCmd { s with curLen := len, romPtr := s.romPtr + 2#16, byteIdx := 0#8 }

/-- `finish(status, err, nmodes)` (R225). -/
def finish (st : Status) (err : Nat) (nmodes : BitVec 2) (s : State) : State :=
  ({ s with lastStatus := st.code }.emit (.respond st.code err nmodes)).goto .idle

/-- `start_delay(n, X)`: the 8-bit counter is loaded with n + 1 (R230). -/
def startDelay (n : Nat) (x : SeqState) (s : State) : State :=
  { s with delayCnt := BitVec.ofNat 8 (n + 1) }.goto x

/-- `legal(lc, op)` (R181). -/
def legal : Lifecycle → HostOp → Bool
  | .unprepared, .prepare => true
  | .unprepared, .unprepare => true
  | .unprepared, .getModes => true
  | .prepared, .enable => true
  | .prepared, .unprepare => true
  | .prepared, .getModes => true
  | .enabled, .disable => true
  | .enabled, .getModes => true
  | .disabled, .enable => true
  | .disabled, .unprepare => true
  | .disabled, .getModes => true
  | _, _ => false

/-- A request that is not accepted stays presented (R42): it is put back at the front of the inputs. -/
def State.holdRequest (op : HostCode) (s : State) : State := { s with inbox := .req op :: s.inbox }

/-- A request with code `op`: accepted in `IDLE`, held in every other used state (R42), a fault elsewhere (R22, R40). -/
def request (op : HostCode) (accept : State → State) (s : State) : Result :=
  withSeq s fun q => if q = .idle then .next (accept s) else .next (s.holdRequest op)

/-- The decode of a named operation (R180): performed where it is legal, else answered `SEQ_ERR` with no other effect. -/
def performIfLegal (op : HostOp) (perform : State → State) (s : State) : State :=
  if legal s.lc op then perform s else finish .seqErr 0 0#2 s

/-- The answer to a reserved code (R74, R180). -/
def refuseReserved (s : State) : State := finish .illegalOp 0 0#2 s

/-- Block reset (R250 to R252): every field takes its reset value and nothing is emitted. The parameters and the ROM are
fixed, and the inputs still to come and the trace so far belong to the world outside (log 12). -/
def State.blockReset (s : State) : State :=
  { State.resetWith s.cfg with rom := s.rom, inbox := s.inbox, trace := s.trace }

/-- The ghost `ctl_known` becomes false (R33). -/
def State.forgetController (s : State) : State := { s with ctlKnown := false }

end Sys2Proof.Machine
end

