-- ==== Sys2Proof/Machine/BusWords.lean ====
section
/-! DEFINITION. The bus words BW.CMD and BW.DATA (spec 40_bus_word_encoder.md R100 to R102): executing a bus word is issuing
it (log 4). -/

namespace Sys2Proof.Machine

/-- `BW.CMD` (R100, R102): `issue_word(Command, c, X)`, X the wait state of the caller. -/
def execBwCmd (c : Byte) (s : State) : Result :=
  withSeq s fun q => .next (writeCommand c (commandWait q) s)

/-- `BW.DATA` (R101, R102): `issue_word(Data, d, X_DATA)`. -/
def execBwData (d : Byte) (s : State) : Result :=
  withSeq s fun _ => .next (issueWord .data d .xData s)

end Sys2Proof.Machine
end

