-- ==== Sys2Proof/Machine/Lifecycle.lean ====
section
/-! DEFINITION. The host operations (spec 43_lifecycle.md R180 to R193; 30_encoding.md R74). What follows a first step that
waits for a collaborator is in Machine/Executor.lean. -/

namespace Sys2Proof.Machine

/-- `PREPARE`, the first step (R182): request power-enable. -/
def execPrepare (s : State) : Result :=
  request HostOp.prepare.code (performIfLegal .prepare fun s => (s.emit (.pwrReq true)).goto .pPwr) s

/-- `ENABLE` (R188). -/
def execEnable (s : State) : Result :=
  request HostOp.enable.code (performIfLegal .enable fun s => finish .ok 0 0#2 { s with lc := .enabled }) s

/-- `DISABLE` (R189). -/
def execDisable (s : State) : Result :=
  request HostOp.disable.code (performIfLegal .disable fun s => finish .ok 0 0#2 { s with lc := .disabled }) s

/-- `UNPREPARE`, the first step (R190, R191): request power-disable. -/
def execUnprepare (s : State) : Result :=
  request HostOp.unprepare.code (performIfLegal .unprepare fun s => (s.emit (.pwrReq false)).goto .uPwr) s

/-- `GET_MODES` (R193). -/
def execGetModes (s : State) : Result :=
  request HostOp.getModes.code (performIfLegal .getModes fun s => finish .ok 0 1#2 s) s

/-- Reserved code 0b000 (R74). -/
def execReserved000 (s : State) : Result := request 0b000#3 refuseReserved s

/-- Reserved code 0b110 (R74). -/
def execReserved110 (s : State) : Result := request 0b110#3 refuseReserved s

/-- Reserved code 0b111 (R74). -/
def execReserved111 (s : State) : Result := request 0b111#3 refuseReserved s

end Sys2Proof.Machine
end

