-- ==== Sys2Proof/Machine/Script.lean ====
section
/-! DEFINITION. The script-step entry and its two pseudo forms (spec 41_controller_driver.md R120, R121; 30_encoding.md R76,
R77, R79). The Data words of an entry follow one at a time, as the transport answers (Machine/Executor.lean). -/

namespace Sys2Proof.Machine

/-- `STEP` (R121): `begin_step` for the entry's cmd and len. -/
def execStep (cmd : Byte) (data : List Byte) (s : State) : Result :=
  withSeq s fun _ => .next (beginStepWith cmd (BitVec.ofNat 8 data.length) s)

/-- `CMD (pseudo)` (R79, R120): the entry `[cmd, 0x00]`. -/
def execCmd (cmd : Byte) (s : State) : Result :=
  withSeq s fun _ => .next (beginStepWith cmd 0x00#8 s)

/-- `BANK (pseudo)` (R77, R79): the entry `[BANKSEL_CMD, 0x05, BANK_MAGIC[0..3], idx]`; the index is sent later, as the
entry's last data byte. -/
def execBank (_idx : Byte) (s : State) : Result :=
  withSeq s fun _ => .next (beginStepWith s.cfg.bankselCmd 0x05#8 s)

end Sys2Proof.Machine
end

