-- ==== Sys2Proof/Machine/Dispatch.lean ====
section
/-! DEFINITION. The one dispatch from instructions to meanings, one arm per row of spec/opcode_table.json. -/

namespace Sys2Proof.Machine

def exec (i : Instr) (s : State) : Host.Outcome State Fault Refusal :=
  match i with
  | .bwCmd c => Sys2Proof.Machine.execBwCmd c s
  | .bwData d => Sys2Proof.Machine.execBwData d s
  | .prepare => Sys2Proof.Machine.execPrepare s
  | .enable => Sys2Proof.Machine.execEnable s
  | .disable => Sys2Proof.Machine.execDisable s
  | .unprepare => Sys2Proof.Machine.execUnprepare s
  | .getModes => Sys2Proof.Machine.execGetModes s
  | .reserved000 => Sys2Proof.Machine.execReserved000 s
  | .reserved110 => Sys2Proof.Machine.execReserved110 s
  | .reserved111 => Sys2Proof.Machine.execReserved111 s
  | .step cmd data => Sys2Proof.Machine.execStep cmd data s
  | .cmd cmd => Sys2Proof.Machine.execCmd cmd s
  | .bank idx => Sys2Proof.Machine.execBank idx s

end Sys2Proof.Machine
end

