-- ==== Sys2Proof/Machine/Executor.lean ====
section
/-! DEFINITION. What an input event does in each sequencer state (spec 10_state.md R40): the script executor (41, R121 to
R126), the bring-up sequence (42, R151 to R156), the power answers (43, R183, R192), the delays (60, R231), and which
input a step takes (R42, R43). Every host code, script entry and bus word that comes up is run by `exec`. -/

namespace Sys2Proof.Machine

/-! ### The script executor -/

/-- The STEP entry at `rom_ptr`, decoded; nothing where one of its bytes is not mapped. -/
def State.fetchEntry (s : State) : Option Instr :=
  match s.scriptRead s.romPtr.toNat, s.scriptRead (s.romPtr.toNat + 1) with
  | some c, some len =>
    match s.rom.readN (s.romPtr.toNat + 2) len.toNat with
    | some data =>
      match decodeEntry s.cfg (c :: len :: data) with
      | .ok (i, _) => some i
      | .error _ => none
    | none => none
  | _, _ => none

/-- `begin_step` (R121). An entry whose data bytes are not all mapped still has a header, and R121 reads no more (log 19). -/
def beginStep (s : State) : Result :=
  match s.fetchEntry with
  | some i => exec i s
  | none =>
    match s.scriptRead s.romPtr.toNat, s.scriptRead (s.romPtr.toNat + 1) with
    | some c, some len => withSeq s fun _ => .next (beginStepWith c len s)
    | _, _ => .fault .scriptOob

/-- `script_done` (R155). -/
def scriptDone (s : State) : State := startDelay tFinalMs .xDlyFin s

/-- `next_step` (R126). -/
def nextStep (s : State) : Result :=
  if (s.stepIdx + 1#8).toNat = s.cfg.nSteps then .next (scriptDone { s with stepIdx := s.stepIdx + 1#8 })
  else beginStep { s with stepIdx := s.stepIdx + 1#8 }

/-- `issue_word(Data, ScriptRead(rom_ptr), X_DATA)` (R122, R124). -/
def sendDataByte (s : State) : Result :=
  match s.scriptRead s.romPtr.toNat with
  | some b => exec (.bwData b) s
  | none => .fault .scriptOob

/-- In `X_CMD`, the Command word was transferred (R122). -/
def commandSent (s : State) : Result :=
  if s.curLen = 0#8 then nextStep s else sendDataByte s

/-- `rom_ptr` and `byte_idx` move past a transferred Data word (R124). -/
def State.advanceByte (s : State) : State :=
  { s with romPtr := s.romPtr + 1#16, byteIdx := s.byteIdx + 1#8 }

/-- In `X_DATA`, a Data word was transferred (R124). -/
def dataSent (s : State) : Result :=
  if s.advanceByte.byteIdx = s.curLen then nextStep s.advanceByte else sendDataByte s.advanceByte

/-! ### Input events, by sequencer state (R40) -/

/-- `PwrDone(r)` (R183, R192; elsewhere ignored, R43). A completed power-disable makes `ctl_known` false (R33). -/
def onPwrDone (r : Reply) (s : State) : Result :=
  withSeq s fun q =>
    match q with
    | .pPwr =>
      match r with
      | .ok => .next (startDelay tPwrMs .pDlyPwr s)
      | .err e => .next (finish .pwrErr e 0#2 s)
    | .uPwr =>
      match r with
      | .ok => .next (finish .ok 0 0#2 { s.forgetController with lc := .unprepared })
      | .err e => .next (finish .pwrErr e 0#2 s.forgetController)
    | .idle | .pDlyPwr | .pDlyRst | .pDlyPost | .xSlp | .xDlySlp | .xCmd | .xData | .xDlyFin => .next s

/-- `BusDone(Ok)` (R122, R124, R152; elsewhere ignored, R43). -/
def onBusOk (s : State) : Result :=
  withSeq s fun q =>
    match q with
    | .xSlp => .next (startDelay tSlpoutMs .xDlySlp s)
    | .xCmd => commandSent s
    | .xData => dataSent s
    | .idle | .pPwr | .pDlyPwr | .pDlyRst | .pDlyPost | .xDlySlp | .xDlyFin | .uPwr => .next s

/-- `BusDone(Err(e))` (R123, R125, R152; elsewhere ignored, R43). Any of them makes `ctl_known` false (R33). -/
def onBusErr (e : Nat) (s : State) : Result :=
  withSeq s fun q =>
    match q with
    | .xSlp | .xCmd | .xData => .next (finish .busErr e 0#2 s.forgetController)
    | .idle | .pPwr | .pDlyPwr | .pDlyRst | .pDlyPost | .xDlySlp | .xDlyFin | .uPwr => .next s.forgetController

/-- `BusDone(r)` (R40). -/
def onBusDone (r : Reply) (s : State) : Result :=
  match r with
  | .ok => onBusOk s
  | .err e => onBusErr e s

/-- The `P_DLY_PWR` delay ends (R184). -/
def assertReset (s : State) : State :=
  startDelay s.cfg.tRstMs .pDlyRst ({ s with rstAssert := true }.emit (.rstSet true))

/-- The `P_DLY_RST` delay ends (R185). -/
def deassertReset (s : State) : State :=
  startDelay tPostRstMs .pDlyPost ({ s with rstAssert := false }.emit (.rstSet false))

/-- The `P_DLY_POST` delay ends (R186): `run_bringup`, the sleep-out Command word (R151). -/
def runBringup (s : State) : Result := exec (.bwCmd s.cfg.slpoutCmd) s

/-- The `X_DLY_SLP` delay ends (R153): the script begins at step 0, address 0. -/
def beginScript (s : State) : Result := beginStep { s with stepIdx := 0#8, romPtr := 0#16 }

/-- The `X_DLY_FIN` delay ends (R156): the panel is ready, and the ghost `ctl_known` becomes true (R33). -/
def declareReady (s : State) : State := finish .ok 0 0#2 { s with lc := .prepared, ctlKnown := true }

/-- `delay_cnt` falls by one; at zero the delay ends (R231). -/
def countDown (s : State) (atEnd : State → Result) : Result :=
  if s.delayCnt - 1#8 = 0#8 then atEnd { s with delayCnt := s.delayCnt - 1#8 }
  else .next { s with delayCnt := s.delayCnt - 1#8 }

/-- `Tick` (R231; elsewhere ignored, R43, R233). -/
def onTick (s : State) : Result :=
  withSeq s fun q =>
    match q with
    | .pDlyPwr => countDown s fun s => .next (assertReset s)
    | .pDlyRst => countDown s fun s => .next (deassertReset s)
    | .pDlyPost => countDown s runBringup
    | .xDlySlp => countDown s beginScript
    | .xDlyFin => countDown s fun s => .next (declareReady s)
    | .idle | .pPwr | .xSlp | .xCmd | .xData | .uPwr => .next s

/-- One event in one state: the table of R40, and block reset (R250, R252). -/
def handle (e : Event) (s : State) : Result :=
  match e with
  | .req op => exec (decodeHostCode op) s
  | .pwrDone r => onPwrDone r s
  | .busDone r => onBusDone r s
  | .tick => onTick s
  | .blockReset => .next s.blockReset

/-! ### Which input a step takes -/

/-- Whether a request is held: `seq` is a used state other than `IDLE` (R42). -/
def State.holds (s : State) : Bool :=
  match seqOf s.seq with
  | some .idle => false
  | some _ => true
  | none => false

/-- The first input that is enabled, and the inputs without it: while requests are held they keep their places (R42). -/
def takeEnabled (hold : Bool) : List Event → Option (Event × List Event)
  | [] => none
  | .req op :: rest =>
    if hold then (takeEnabled hold rest).map fun x => (x.1, .req op :: x.2) else some (.req op, rest)
  | e :: rest => some (e, rest)

/-- With no enabled input nothing happens but that the last step's outputs are over (R271; log 1). -/
def waitForInput (s : State) : Result := withSeq s fun _ => .next s.clearOuts

/-- One step: take the first enabled input and do what R40 says. -/
def stepOnce (s : State) : Result :=
  match takeEnabled s.holds s.inbox with
  | none => waitForInput s
  | some (e, rest) => handle e { s.clearOuts with inbox := rest }

/-! ### Placing one instruction where the next step runs it (log 8) -/

/-- A host code on the request port of an idle block. -/
def State.placeHostCode (op : HostCode) (s : State) : State :=
  { s with seq := SeqState.idle.code, inbox := .req op :: s.inbox }

/-- A Command word that the next step issues: the sleep-out word of the end of the post-reset delay. -/
def State.placeCommandWord (c : Byte) (s : State) : State :=
  { s with cfg := { s.cfg with slpoutCmd := c }, seq := SeqState.pDlyPost.code, delayCnt := 1#8, inbox := .tick :: s.inbox }

/-- A Data word that the next step issues: the data byte at `rom_ptr` of a step whose Command word was transferred. -/
def State.placeDataWord (d : Byte) (s : State) : State :=
  { s with rom := Memory.ofBytes s.romPtr.toNat [d], seq := SeqState.xCmd.code, curLen := 1#8,
           inbox := .busDone .ok :: s.inbox }

/-- A script entry that the next step begins: the ROM's contents, at the end of the sleep-out delay. -/
def State.placeEntry (bytes : List Byte) (s : State) : State :=
  { s with rom := Memory.ofBytes 0 bytes, seq := SeqState.xDlySlp.code, delayCnt := 1#8, inbox := .tick :: s.inbox }

/-- The instruction of a table word, placed by its format. -/
def State.placeTableWord (s : State) (nbits w : Nat) : State :=
  match tableFormat nbits w with
  | .hop => s.placeHostCode (BitVec.ofNat 3 w)
  | .bw =>
    match busDecode (BitVec.ofNat 9 w) with
    | (.command, c) => s.placeCommandWord c
    | (.data, d) => s.placeDataWord d
  | .step => s.placeEntry (tableWordBytes .step w)

end Sys2Proof.Machine
end

