-- ==== Sys2Proof/Machine/Ports.lean ====
section
/-! DEFINITION. The block's ports (spec 10_state.md R35 to R39): the outputs as functions of the state, the inputs as the
events they are. -/

namespace Sys2Proof.Machine

/-! ### Outputs -/

/-- `req_ready` (R35). -/
def State.reqReady (s : State) : Bool := s.seq == SeqState.idle.code

/-- The fields of a response, where the output event is one (R36). -/
def OutEvent.response : OutEvent → Option (StatusCode × Nat × BitVec 2)
  | .respond st err n => some (st, err, n)
  | .busXfer _ => none
  | .pwrReq _ => none
  | .rstSet _ => none

/-- `rsp_status`, `rsp_err` and `rsp_nmodes` of the latest step's response, if it gave one (R36). -/
def State.response (s : State) : Option (StatusCode × Nat × BitVec 2) := s.outs.findSome? OutEvent.response

/-- `rsp_valid`: the latest step emitted a response (R36). -/
def State.rspValid (s : State) : Bool := s.response.isSome

/-- `bus_valid` (R37). The word is `State.busWord`. -/
def State.busValid (s : State) : Bool :=
  s.seq == SeqState.xSlp.code || s.seq == SeqState.xCmd.code || s.seq == SeqState.xData.code

/-- `pwr_valid` (R38). -/
def State.pwrValid (s : State) : Bool := s.seq == SeqState.pPwr.code || s.seq == SeqState.uPwr.code

/-- `pwr_on` (R38). -/
def State.pwrOn (s : State) : Bool := s.seq == SeqState.pPwr.code

/-- `rst_out` (R39). -/
def State.rstOut (s : State) : Bool := s.rstAssert

/-- `mode_data` for the `mode_addr` the host drives: continuous, valid in every state (R36). -/
def State.modeData (s : State) (modeAddr : ModeAddr) : Half := modeRead s.cfg modeAddr

/-! ### Inputs -/

/-- A completion pulse: `done`, `fail` and the error value (R37, R38). -/
def replyOf (fail : Bool) (err : Nat) : Reply := if fail then .err err else .ok

/-- The event of a cycle on the request port (R35). -/
def reqPortEvent (s : State) (reqValid : Bool) (reqOp : HostCode) : Option Event :=
  if reqValid && s.reqReady then some (.req reqOp) else none

/-- The event of a cycle on the bus port (R37). -/
def busPortEvent (busDone busFail : Bool) (busErr : Nat) : Option Event :=
  if busDone then some (.busDone (replyOf busFail busErr)) else none

/-- The event of a cycle on the power port (R38). -/
def pwrPortEvent (pwrDone pwrFail : Bool) (pwrErr : Nat) : Option Event :=
  if pwrDone then some (.pwrDone (replyOf pwrFail pwrErr)) else none

/-- The event of a cycle on `tick_ms` (R39). -/
def tickPortEvent (tickMs : Bool) : Option Event := if tickMs then some .tick else none

end Sys2Proof.Machine
end

