-- ==== Sys2Proof/Machine/Step.lean ====
section
/-! DEFINITION. The step function (spec 10_state.md R40) and the placing of one instruction for the next step. -/

namespace Sys2Proof.Machine

/-- One step of the block. -/
def step (s : State) : Host.Outcome State Fault Refusal := stepOnce s

/-- The state in which the next step runs the instruction of a table word (log 8). -/
def State.withFetchWord (s : State) (nbits w : Nat) : State := s.placeTableWord nbits w

end Sys2Proof.Machine
end

