-- ==== Sys2Proof/Machine/Cycle.lean ====
section
/-! DEFINITION. One cycle of the block's ports: the inputs that arrive together, and the order in which the step function
takes them (spec 10_state.md R35 to R39; 60_exceptions.md R227). The step function takes one event a step, so a cycle is a
run of steps; which of its events can act is decided by the sequencer state the cycle begins in (log 20). -/

namespace Sys2Proof.Machine

/-- The inputs of one cycle (R35, R37 to R39), and whether block reset comes (R250). -/
structure PortCycle where
  rst      : Bool := false
  reqValid : Bool := false
  reqOp    : HostCode := 0b000#3
  busDone  : Bool := false
  busFail  : Bool := false
  busErr   : Nat := 0
  pwrDone  : Bool := false
  pwrFail  : Bool := false
  pwrErr   : Nat := 0
  tickMs   : Bool := false
deriving DecidableEq, Repr

/-- The cells of R40 that name a rule: the event is neither held nor ignored. Block reset acts everywhere (R252). -/
def SeqState.actsOn : SeqState → Event → Bool
  | .idle, .req _ => true
  | .pPwr, .pwrDone _ | .uPwr, .pwrDone _ => true
  | .xSlp, .busDone _ | .xCmd, .busDone _ | .xData, .busDone _ => true
  | .pDlyPwr, .tick | .pDlyRst, .tick | .pDlyPost, .tick | .xDlySlp, .tick | .xDlyFin, .tick => true
  | _, .blockReset => true
  | _, _ => false

/-- Whether an event acts in the present sequencer state (R40). -/
def State.acts (s : State) (e : Event) : Bool :=
  match seqOf s.seq with
  | some q => q.actsOn e
  | none => false

/-- The events of a cycle, port by port. A request that is not accepted is no event (R35): the host presents it again. -/
def portEvents (s : State) (c : PortCycle) : List Event :=
  if c.rst then [.blockReset]
  else (tickPortEvent c.tickMs).toList ++ (pwrPortEvent c.pwrDone c.pwrFail c.pwrErr).toList
    ++ (busPortEvent c.busDone c.busFail c.busErr).toList ++ (reqPortEvent s c.reqValid c.reqOp).toList

/-- The events of a cycle in the order the steps take them: first those that do not act in the state the cycle begins in, so
that they are ignored in that state, then the one that acts (R227 c, d). -/
def cycleEvents (s : State) (c : PortCycle) : List Event :=
  (portEvents s c).filter (fun e => !s.acts e) ++ (portEvents s c).filter s.acts

/-- One cycle: a step for each of its events, before any input that is still to come; with no event the block waits. -/
def cycle (c : PortCycle) (s : State) : Result :=
  match cycleEvents s c with
  | [] => waitForInput s
  | e :: es => Host.Core.run Sys2Proof.core (es.length + 1) { s with inbox := e :: es ++ s.inbox }

/-- Cycles one after another. -/
def runCycles : List PortCycle → State → Result
  | [], s => .next s
  | c :: cs, s =>
    match cycle c s with
    | .next t => runCycles cs t
    | .fault f => .fault f
    | .refused r => .refused r

end Sys2Proof.Machine
end

