-- ==== Sys2Proof/Safety.lean ====
section
/-! DEFINITION. The terms claims use: the invariant of the block, the launch premise (spec 70_reset_and_hazards.md R253),
runs, and the bus words and output traces the rules speak of (41_controller_driver.md R127; 43_lifecycle.md R194). -/

namespace Sys2Proof.Machine

/-! ### Words and traces of a script -/

/-- The bus image of one step: its Command word, then its Data words (R127). -/
def stepWords (st : ScriptStep) : List BusWord := busEncode .command st.cmd :: st.data.map (busEncode .data)

/-- The bus image of a script: the step images in script order (R127). -/
def scriptWords : List ScriptStep → List BusWord
  | [] => []
  | st :: rest => stepWords st ++ scriptWords rest

/-- `BusXfer` of each word, in order. -/
def transfers (ws : List BusWord) : List OutEvent := ws.map OutEvent.busXfer

/-- `n` ticks. -/
def ticks (n : Nat) : List Event := List.replicate n Event.tick

/-- `n` transfers that succeed. -/
def busOks (n : Nat) : List Event := List.replicate n (Event.busDone Reply.ok)

/-- The output trace of a PREPARE in which every collaborator succeeds (R194). -/
def prepareTrace (c : Config) : List OutEvent :=
  OutEvent.pwrReq true :: OutEvent.rstSet true :: OutEvent.rstSet false
    :: (transfers (busEncode .command c.slpoutCmd :: scriptWords c.script) ++ [OutEvent.respond 0b000#3 0 0b00#2])

/-- The inputs of such a PREPARE with nothing ignored among them: the request, the power answer, the ticks of the power
settle, the reset pulse and the post-reset settle, the sleep-out transfer and its settle, the script's transfers, and the
final settle. -/
def prepareInputs (c : Config) : List Event :=
  Event.req 0b001#3 :: Event.pwrDone .ok ::
    (ticks 121 ++ (ticks (c.tRstMs + 1) ++ (ticks 121 ++ (busOks 1 ++ (ticks 121
      ++ (busOks (scriptWords c.script).length ++ ticks 121))))))

/-! ### Runs -/

/-- `n` steps of the block. -/
def runFor (n : Nat) (s : State) : Result := Host.Core.run Sys2Proof.core n s

/-! ### What the environment may present -/

/-- A collaborator's error value has `ERR_W` bits (R34, R37, R38). -/
def Reply.fits (w : Nat) : Reply → Bool
  | .ok => true
  | .err e => decide (e < 2 ^ w)

/-- An input event whose values fit their ports. -/
def Event.fits (w : Nat) : Event → Bool
  | .pwrDone r => r.fits w
  | .busDone r => r.fits w
  | .req _ => true
  | .tick => true
  | .blockReset => true

/-- A response is one of those R75 lets the block produce: an error value with `ERR_W` bits and only with `BUS_ERR` or
`PWR_ERR`, a mode count of 1 only with `OK`, and no reserved status. Other outputs have no such bound. -/
def OutEvent.fits (w : Nat) : OutEvent → Bool
  | .respond st e n =>
    decide (st.toNat ≤ 4) && decide (e < 2 ^ w)
      && (decide (e = 0) || decide (st = Status.busErr.code) || decide (st = Status.pwrErr.code))
      && (decide (n = 0#2) || (decide (n = 1#2) && decide (st = Status.ok.code)))
  | .busXfer _ => true
  | .pwrReq _ => true
  | .rstSet _ => true

/-- `e` is the first enabled input and `rest` are the others: only held requests stand before it, and only in a used state
other than `IDLE`; a request itself is enabled in `IDLE` alone (R42). -/
def State.Sees (s : State) (e : Event) (rest : List Event) : Prop :=
  ∃ held after : List Event, s.inbox = held ++ e :: after ∧ rest = held ++ after
    ∧ (∀ x ∈ held, ∃ op, x = .req op)
    ∧ (held ≠ [] → ∃ q, seqOf s.seq = some q ∧ q ≠ .idle)
    ∧ ((∃ op, e = .req op) → seqOf s.seq = some .idle)

/-- Whether an input is a host request. -/
def Event.isRequest : Event → Bool
  | .req _ => true
  | .pwrDone _ | .busDone _ | .tick | .blockReset => false

/-! ### States as the rules describe them, field by field -/

/-- The state in which a step does its work: its input is taken, and it has emitted nothing yet (R40). -/
def State.taking (s : State) (rest : List Event) : State := { s with inbox := rest, outs := [] }

/-- `Respond(st, e, n)` was emitted, `last_status` is `st`, and `seq` is `IDLE`; nothing else changed (R225). -/
def State.answered (s : State) (st : StatusCode) (e : Nat) (n : BitVec 2) : State :=
  { s with
    lastStatus := st
    seq := 0x0#4
    outs := s.outs ++ [OutEvent.respond st e n]
    trace := s.trace ++ [OutEvent.respond st e n] }

/-- `BusXfer(w)` was emitted, `bus_word` is `w`, and the sequencer waits in the state with code `q`; nothing else changed
(R102). -/
def State.issued (s : State) (w : BusWord) (q : SeqCode) : State :=
  { s with
    busWord := w
    seq := q
    outs := s.outs ++ [OutEvent.busXfer w]
    trace := s.trace ++ [OutEvent.busXfer w] }

/-- The script pointers at the data bytes of an entry whose len byte is `len` (R121). -/
def State.pastHeader (s : State) (len : Byte) : State :=
  { s with curLen := len, romPtr := s.romPtr + 2#16, byteIdx := 0#8 }

/-- A delay of `n` Ticks from here, in the delay state with code `q`; nothing else changed (R230). -/
def State.delaying (s : State) (n : Nat) (q : SeqCode) : State :=
  { s with delayCnt := BitVec.ofNat 8 n, seq := q }

/-! ### The invariant -/

/-- While the block waits for a transfer, `bus_word` is the word of the place it is at, and the script pointers are at that
place: the sleep-out word, or the Command word or a Data word of step `step_idx` (R23, R37, R51, R121 to R124). -/
def State.placeOk (s : State) : Bool :=
  match seqOf s.seq with
  | some .xSlp => decide (s.busWord = busEncode .command s.cfg.slpoutCmd)
  | some .xCmd =>
    match s.cfg.script[s.stepIdx.toNat]? with
    | some st =>
      decide (s.romPtr.toNat = s.cfg.stepBase s.stepIdx.toNat + 2) && decide (s.curLen.toNat = st.data.length)
        && decide (s.byteIdx = 0#8) && decide (s.busWord = busEncode .command st.cmd)
    | none => false
  | some .xData =>
    match s.cfg.script[s.stepIdx.toNat]? with
    | some st =>
      decide (s.romPtr.toNat = s.cfg.stepBase s.stepIdx.toNat + 2 + s.byteIdx.toNat)
        && decide (s.curLen.toNat = st.data.length) && decide (s.byteIdx.toNat < st.data.length)
        && decide (st.data[s.byteIdx.toNat]?.map (busEncode .data) = some s.busWord)
    | none => false
  | _ => true

/-- In a delay state `delay_cnt` is at least 1 and at most what was loaded (R24, R230, R231). -/
def State.delayOk (s : State) : Bool :=
  match seqOf s.seq with
  | some .pDlyPwr => decide (1 ≤ s.delayCnt.toNat) && decide (s.delayCnt.toNat ≤ tPwrMs + 1)
  | some .pDlyRst => decide (1 ≤ s.delayCnt.toNat) && decide (s.delayCnt.toNat ≤ s.cfg.tRstMs + 1)
  | some .pDlyPost => decide (1 ≤ s.delayCnt.toNat) && decide (s.delayCnt.toNat ≤ tPostRstMs + 1)
  | some .xDlySlp => decide (1 ≤ s.delayCnt.toNat) && decide (s.delayCnt.toNat ≤ tSlpoutMs + 1)
  | some .xDlyFin => decide (1 ≤ s.delayCnt.toNat) && decide (s.delayCnt.toNat ≤ tFinalMs + 1)
  | _ => true

/-- Reset is asserted exactly during the reset pulse (R25, R184, R185, R187). -/
def State.resetLineOk (s : State) : Bool := s.rstAssert == decide (seqOf s.seq = some .pDlyRst)

/-- While PREPARE runs `lc` is still `Unprepared`, and UNPREPARE does not run in `Enabled` (R21, R181, R187). -/
def State.lifecycleOk (s : State) : Bool :=
  match seqOf s.seq with
  | some .idle => true
  | some .uPwr => decide (s.lc ≠ .enabled)
  | _ => decide (s.lc = .unprepared)

/-- The invariant: what holds in every state the block can reach from a clean launch, whatever its inputs. -/
structure State.Inv (s : State) : Prop where
  /-- The configuration is valid (R9). -/
  cfgValid     : s.cfg.valid = true
  /-- The Script ROM holds the image of the script, in canonical form (R51, R60). -/
  romHolds     : s.rom = romOf s.cfg
  /-- `seq` is a used state (R22). -/
  seqUsed      : (seqOf s.seq).isSome = true
  placeOk      : s.placeOk = true
  delayOk      : s.delayOk = true
  resetLineOk  : s.resetLineOk = true
  lifecycleOk  : s.lifecycleOk = true
  /-- `last_status` is a code the block produces (R26, R75, R224). -/
  statusOk     : s.lastStatus.toNat ≤ 4
  /-- The ghost `ctl_known` is true only where a prepare has completed since (R33). -/
  ctlOk        : s.ctlKnown = true → s.lc ≠ .unprepared
  /-- The inputs fit their ports (R34). -/
  inboxFits    : s.inbox.all (Event.fits s.cfg.errW) = true
  /-- The outputs are ones the block produces (R75). -/
  outsFit      : s.outs.all (OutEvent.fits s.cfg.errW) = true
  traceFits    : s.trace.all (OutEvent.fits s.cfg.errW) = true

/-- The part of the launch premise `clean_launch` that concerns the block (R253, item 2): a state right after reset of a
block built with a valid configuration. Items 1 and 3 to 5 are about the world outside. -/
def State.cleanLaunch (s : State) : Prop := ∃ c : Config, c.valid = true ∧ s = State.resetWith c

end Sys2Proof.Machine
end

