-- ==== Sys2Proof/Certificates/Slice0/Obligations.lean ====
section
/-! DEFINITION. The statements for the provers. Each says which rule of spec/ it formalises; "log <n>" names a choice of the
model's own. A step's next state is written field by field (`State.taking`, `State.answered`, `State.issued`,
`State.pastHeader`, `State.delaying` of Safety.lean), so that every field that is not named is unchanged. -/

open Sys2Proof Sys2Proof.Machine

/-! ## Encodings -/

/-- R100, R101, R105: a Command word is the byte zero-extended and a Data word the byte plus 0x100; bit 8 is set exactly for
Data and bits 7:0 are the byte; the encoder is injective, its image is every 9-bit word, and `decode` inverts it. -/
def Obligations.BusWordEncoderLaw : Prop :=
  (∀ b : Byte, busEncode .command b = 0b0#1 ++ b ∧ (busEncode .command b).toNat = b.toNat
    ∧ busEncode .data b = 0b1#1 ++ b ∧ (busEncode .data b).toNat = 0x100 + b.toNat)
    ∧ (∀ (k : BusKind) (b : Byte), ((busEncode k b).getLsbD 8 = true ↔ k = .data) ∧ (busEncode k b).extractLsb' 0 8 = b)
    ∧ (∀ (k k' : BusKind) (b b' : Byte), busEncode k b = busEncode k' b' → k = k' ∧ b = b')
    ∧ (∀ w : BusWord, ∃ (k : BusKind) (b : Byte), busEncode k b = w)
    ∧ (∀ w : BusWord, busDecode w = (if w.getLsbD 8 = false then .command else .data, w.extractLsb' 0 8))
    ∧ (∀ (k : BusKind) (b : Byte), busDecode (busEncode k b) = (k, b))

/-- R71: bit 8 is DC, 0 for a Command word and 1 for a Data word, and bits 7:0 are the payload, unmodified. -/
def Obligations.BusWordFormat : Prop :=
  ∀ w : BusWord,
    (w.getLsbD 8 = false → w.toNat < 0x100 ∧ decodeBusWord w = .bwCmd (w.extractLsb' 0 8))
      ∧ (w.getLsbD 8 = true → 0x100 ≤ w.toNat ∧ decodeBusWord w = .bwData (w.extractLsb' 0 8))

/-- R73: the operation codes, in the decoder. The last clause gives the encoder's bytes: that a host code is one byte, with
the code in bits 2:0, is log 7, the model's choice. -/
def Obligations.HostCodesOfTheTable : Prop :=
  (decodeHostCode 0b001#3 = .prepare ∧ decodeHostCode 0b010#3 = .enable ∧ decodeHostCode 0b011#3 = .disable
    ∧ decodeHostCode 0b100#3 = .unprepare ∧ decodeHostCode 0b101#3 = .getModes)
    ∧ (decodeHostCode 0b000#3 = .reserved000 ∧ decodeHostCode 0b110#3 = .reserved110
      ∧ decodeHostCode 0b111#3 = .reserved111)
    ∧ (∀ (c : Config) (op : HostCode), encode c (decodeHostCode op) = [op.setWidth 8])

/-- A few instructions written out bit by bit: three bus words of 95_test_vectors.md L2.1 (R71), the five operation codes and
a reserved one (R73, R74), and entries of R76 and R79 with the bank-select bytes of any configuration. The bits of the
words, the codes and the entries are the spec's. That a bus word is two bytes, the payload first and DC in bit 0 of the
second, and a host code one byte, is log 7, and that the decoder names an entry CMD or BANK where it has their bytes is
log 6: both are the model's choices. -/
def Obligations.WrittenOutWordsDecode : Prop :=
  ∀ c : Config,
    decode c .bw [0b10100101#8, 0b00000000#8] = .ok (.bwCmd 0xA5#8, [])
    ∧ decode c .bw [0b10100101#8, 0b00000001#8] = .ok (.bwData 0xA5#8, [])
    ∧ decode c .bw [0b00000000#8, 0b00000001#8] = .ok (.bwData 0x00#8, [])
    ∧ decode c .hop [0b00000001#8] = .ok (.prepare, [])
    ∧ decode c .hop [0b00000010#8] = .ok (.enable, [])
    ∧ decode c .hop [0b00000011#8] = .ok (.disable, [])
    ∧ decode c .hop [0b00000100#8] = .ok (.unprepare, [])
    ∧ decode c .hop [0b00000101#8] = .ok (.getModes, [])
    ∧ decode c .hop [0b00000111#8] = .ok (.reserved111, [])
    ∧ decode c .step [0x3A#8, 0x01#8, 0x60#8] = .ok (.step 0x3A#8 [0x60#8], [])
    ∧ decode c .step [0x29#8, 0x00#8] = .ok (.cmd 0x29#8, [])
    ∧ decode c .step [c.bankselCmd, 0x05#8, c.bankMagic.b0, c.bankMagic.b1, c.bankMagic.b2, c.bankMagic.b3, 0x00#8]
        = .ok (.bank 0x00#8, [])

/-- Decode and encode agree, for every instruction whose data length fits its `len` byte, with any bytes after it: the
decoder gives the instruction back under the name its bytes have (R76, R79), and that name has the same bytes. The name is
another one only where a STEP has the bytes of CMD or of BANK, which the decoder then names (log 6). -/
def Obligations.DecodeOfEncode : Prop :=
  (∀ (c : Config) (i : Instr) (rest : List Byte), i.lenOk = true →
    decode c i.format (encode c i ++ rest) = .ok (i.canonical c, rest)
      ∧ encode c (i.canonical c) = encode c i ∧ (i.canonical c).format = i.format)
    ∧ ∀ (c : Config) (i : Instr), i.canonical c ≠ i →
      (∃ k, i = .step k [] ∧ i.canonical c = .cmd k)
        ∨ (∃ idx, i = .step c.bankselCmd [c.bankMagic.b0, c.bankMagic.b1, c.bankMagic.b2, c.bankMagic.b3, idx]
            ∧ i.canonical c = .bank idx)

/-- R76, the other direction: bytes that decode to an entry are exactly the bytes of that entry and the rest; and they are
rejected only where the length in byte 1 runs past their end. -/
def Obligations.EntryBytesAreRecovered : Prop :=
  (∀ (c : Config) (bytes rest : List Byte) (i : Instr),
      decode c .step bytes = .ok (i, rest) → bytes = encode c i ++ rest ∧ i.lenOk = true)
    ∧ (∀ (c : Config) (cmd len : Byte) (rest : List Byte),
      (∃ x, decode c .step (cmd :: len :: rest) = .ok x) ↔ len.toNat ≤ rest.length)

/-! ## The Script ROM and the script checks -/

/-- R51: the ROM of a script holds step `i` at `base_i`: its cmd byte, its len byte, then its data bytes in source order.
`base_0` is 0, each entry follows the one before with no padding, `SCRIPT_BYTES` is the end of the last, and there is
nothing after it. -/
def Obligations.RomHoldsTheScriptImage : Prop :=
  ∀ c : Config,
    (∀ (i : Nat) (st : ScriptStep), c.script[i]? = some st → st.data.length ≤ 255 →
      (romOf c).read (c.stepBase i) = some st.cmd
        ∧ (∃ len : Byte, (romOf c).read (c.stepBase i + 1) = some len ∧ len.toNat = st.data.length)
        ∧ (∀ k, k < st.data.length → (romOf c).read (c.stepBase i + 2 + k) = st.data[k]?)
        ∧ c.stepBase (i + 1) = c.stepBase i + 2 + st.data.length)
      ∧ c.stepBase 0 = 0 ∧ c.stepBase c.nSteps = c.scriptBytes
      ∧ (∀ a, c.scriptBytes ≤ a → (romOf c).read a = none)

/-- R52, R56: exactly the addresses below `SCRIPT_BYTES` are mapped, each holding its byte of the image; the cells are in
canonical form. -/
def Obligations.RomIsMappedBelowScriptBytes : Prop :=
  ∀ c : Config, c.valid = true →
    (∀ a : Nat, (romOf c).read a = (scriptImage c.script)[a]?)
      ∧ (∀ a : Nat, ((romOf c).read a).isSome = true ↔ a < c.scriptBytes) ∧ (romOf c).wf = true

/-- 42_register_script.md section 2 (R160 to R167): a configuration is valid exactly when its parameters are in range
(R6), the bounds of R160 hold, the constraints of R167 hold, and its script has the framed shape. A block is built from
valid configurations only (R9). -/
def Obligations.ValidScriptsHaveTheFramedShape : Prop :=
  (∀ c : Config, c.valid = true ↔
    (30 ≤ c.tRstMs ∧ c.tRstMs ≤ 119 ∧ 1 ≤ c.errW)
      ∧ (c.nSteps ≤ 255 ∧ c.scriptBytes ≤ 65535 ∧ ∀ st ∈ c.script, st.data.length ≤ 255)
      ∧ (c.bank0Sel ≠ c.bank1Sel ∧ c.bank0Sel ≠ 0x00#8 ∧ c.bank1Sel ≠ 0x00#8
        ∧ c.colmodCmd ≠ c.bankselCmd ∧ c.disponCmd ≠ c.bankselCmd)
      ∧ ∃ B0 B1 : List ScriptStep,
        (∀ st ∈ B0 ++ B1, st.cmd ≠ c.bankselCmd)
          ∧ c.script = [c.bankStep c.bank0Sel] ++ B0 ++ [c.bankStep c.bank1Sel] ++ B1
            ++ [c.bankStep 0x00#8, ⟨c.colmodCmd, [c.colmodArg]⟩, ⟨c.disponCmd, []⟩])
    ∧ ∀ c : Config, (Config.buildFrom c).map ValidConfig.val = if c.valid = true then some c else none

/-! ## Reset, STATUS and the mode registers -/

/-- R250: what block reset leaves in every field the spec names, in STATUS and at the ports, for a block built with `c`.
(`ctl_known` is false by R33; the three lists are the model's own fields, log 1 and log 3, and are not claimed here.) -/
def Obligations.ResetValues : Prop :=
  ∀ c : Config,
    let s := State.resetWith c
    s.cfg = c ∧ s.lc = .unprepared ∧ s.seq = 0x0#4 ∧ s.stepIdx = 0#8 ∧ s.romPtr = 0#16 ∧ s.curLen = 0#8
      ∧ s.byteIdx = 0#8 ∧ s.delayCnt = 0#8 ∧ s.rstAssert = false ∧ s.lastStatus = 0b000#3 ∧ s.busWord = 0x000#9
      ∧ s.status = 0x0000#16 ∧ (∀ a, s.modeData a = modeRead c a)
      ∧ (∀ a, s.scriptRead a = (scriptImage c.script)[a]?)
      ∧ s.reqReady = true ∧ s.busValid = false ∧ s.pwrValid = false ∧ s.rstOut = false ∧ s.rspValid = false

/-- R251, R252: block reset, in any state and in the middle of any operation, sets every field to its reset value and emits
nothing; no response is given, and neither `bus_valid` nor `pwr_valid` is left. The parameters and the ROM stay, and so do
the other inputs and the trace (log 12). -/
def Obligations.BlockResetAbandonsTheOperation : Prop :=
  ∀ (s : State) (rest : List Event), s.Sees .blockReset rest →
    ∃ t, step s = .next t
      ∧ t = { cfg := s.cfg, rom := s.rom, lc := .unprepared, seq := 0x0#4, stepIdx := 0#8, romPtr := 0#16, curLen := 0#8,
              byteIdx := 0#8, delayCnt := 0#8, rstAssert := false, lastStatus := 0b000#3, busWord := 0x000#9,
              ctlKnown := false, inbox := rest, outs := [], trace := s.trace }
      ∧ t.rspValid = false ∧ t.busValid = false ∧ t.pwrValid = false

/-- R28: the fields of STATUS and its reset value; and the port outputs that follow from the state (R35 to R39). -/
def Obligations.StatusAndPortOutputs : Prop :=
  (∀ s : State,
    s.status.extractLsb' 0 2 = (match s.lc with
        | .unprepared => 0b00#2
        | .prepared => 0b01#2
        | .enabled => 0b10#2
        | .disabled => 0b11#2)
      ∧ (s.status.getLsbD 2 = true ↔ s.seq ≠ 0x0#4)
      ∧ s.status.extractLsb' 3 3 = s.lastStatus
      ∧ s.status.getLsbD 6 = s.rstAssert
      ∧ s.status.extractLsb' 7 9 = 0#9)
    ∧ (∀ c : Config, (State.resetWith c).status = 0x0000#16)
    ∧ ∀ s : State,
      (s.reqReady = true ↔ s.seq = 0x0#4)
        ∧ (s.busValid = true ↔ s.seq = 0x5#4 ∨ s.seq = 0x7#4 ∨ s.seq = 0x8#4)
        ∧ (s.pwrValid = true ↔ s.seq = 0x1#4 ∨ s.seq = 0xA#4)
        ∧ (s.pwrOn = true ↔ s.seq = 0x1#4)
        ∧ s.rstOut = s.rstAssert
        ∧ (s.rspValid = true ↔ ∃ st e n, OutEvent.respond st e n ∈ s.outs)

/-- R30: the sixteen mode registers, in every state, and that no step changes one. -/
def Obligations.ModeRegisterValues : Prop :=
  (∀ s : State,
    [0x0#4, 0x1#4, 0x2#4, 0x3#4, 0x4#4, 0x5#4, 0x6#4, 0x7#4, 0x8#4, 0x9#4, 0xA#4, 0xB#4, 0xC#4, 0xD#4, 0xE#4,
        0xF#4].map s.modeData
      = [0x3918#16, 0x01E0#16, 0x0200#16, 0x020B#16, 0x020D#16, 0x0320#16, 0x0356#16, 0x037F#16, 0x03A0#16, 0x0034#16,
        0x0056#16, s.cfg.modeBusFormat, 0x0001#16, 0x0003#16, s.cfg.modeSyncFlags, 0x0001#16])
    ∧ ∀ (s t : State) (a : ModeAddr), step s = .next t → t.modeData a = s.modeData a

/-! ## The host operations -/

/-- R182: PREPARE in `IDLE`. From `Unprepared` it requests power-enable and waits in `P_PWR`; from any other lifecycle
state it is refused with SEQ_ERR and no other effect (R180). -/
def Obligations.PrepareRequestsPower : Prop :=
  ∀ s : State, s.seq = 0x0#4 →
    (s.lc = .unprepared →
      exec .prepare s = .next { s with
        seq := 0x1#4
        outs := s.outs ++ [OutEvent.pwrReq true]
        trace := s.trace ++ [OutEvent.pwrReq true] })
      ∧ (s.lc ≠ .unprepared → exec .prepare s = .next (s.answered 0b011#3 0 0b00#2))

/-- R188: ENABLE, op 0b010, in `IDLE`: legal in `Prepared` and `Disabled`, SEQ_ERR in the others, no collaborator. -/
def Obligations.EnableIsAnsweredAtOnce : Prop :=
  decodeHostCode 0b010#3 = .enable ∧
    ∀ s : State, s.seq = 0x0#4 →
      (s.lc = .prepared ∨ s.lc = .disabled →
        exec .enable s = .next ({ s with lc := .enabled }.answered 0b000#3 0 0b00#2))
        ∧ (s.lc = .unprepared ∨ s.lc = .enabled → exec .enable s = .next (s.answered 0b011#3 0 0b00#2))

/-- R189: DISABLE, op 0b011, in `IDLE`: legal in `Enabled`, SEQ_ERR in the others, no collaborator. -/
def Obligations.DisableIsAnsweredAtOnce : Prop :=
  decodeHostCode 0b011#3 = .disable ∧
    ∀ s : State, s.seq = 0x0#4 →
      (s.lc = .enabled → exec .disable s = .next ({ s with lc := .disabled }.answered 0b000#3 0 0b00#2))
        ∧ (s.lc ≠ .enabled → exec .disable s = .next (s.answered 0b011#3 0 0b00#2))

/-- R191 with R190's legal states: UNPREPARE in `IDLE` requests power-disable and waits in `U_PWR`; in `Enabled` it is
refused with SEQ_ERR. Neither `lc` nor the reset line changes, and no bus word is sent. -/
def Obligations.UnprepareRequestsPowerOff : Prop :=
  ∀ s : State, s.seq = 0x0#4 →
    (s.lc ≠ .enabled →
      exec .unprepare s = .next { s with
        seq := 0xA#4
        outs := s.outs ++ [OutEvent.pwrReq false]
        trace := s.trace ++ [OutEvent.pwrReq false] })
      ∧ (s.lc = .enabled → exec .unprepare s = .next (s.answered 0b011#3 0 0b00#2))

/-- R193: GET_MODES, op 0b101, in `IDLE` and in every lifecycle state: OK with a mode count of 1, and nothing else; the
descriptor reads as before. In every state, whatever runs, it reads HTOTAL as 0x020D, MODE_TYPE as 0x0003 and NMODES as 1,
and what it reads depends on the configuration alone. -/
def Obligations.GetModesAnswersOneMode : Prop :=
  decodeHostCode 0b101#3 = .getModes ∧
    (∀ s : State, s.seq = 0x0#4 →
      ∃ t, exec .getModes s = .next t ∧ t = s.answered 0b000#3 0 0b01#2 ∧ ∀ a, t.modeData a = s.modeData a)
    ∧ ∀ s : State, s.modeData 0x4#4 = 0x020D#16 ∧ s.modeData 0xD#4 = 0x0003#16 ∧ s.modeData 0xF#4 = 0x0001#16
      ∧ ∀ t : State, t.cfg = s.cfg → ∀ a, t.modeData a = s.modeData a

/-- R74: each reserved code in `IDLE` is answered ILLEGAL_OP and changes nothing else, in every lifecycle state; no two
codes are the same instruction. -/
def Obligations.ReservedCodesAreAnsweredIllegal : Prop :=
  (decodeHostCode 0b000#3 = .reserved000 ∧ decodeHostCode 0b110#3 = .reserved110
    ∧ decodeHostCode 0b111#3 = .reserved111)
    ∧ (∀ s : State, s.seq = 0x0#4 →
      exec .reserved000 s = .next (s.answered 0b100#3 0 0b00#2)
        ∧ exec .reserved110 s = .next (s.answered 0b100#3 0 0b00#2)
        ∧ exec .reserved111 s = .next (s.answered 0b100#3 0 0b00#2))
    ∧ ∀ a b : HostCode, decodeHostCode a = decodeHostCode b → a = b

/-- A host operation given to the block in a used state other than `IDLE` waits: the request stands first among the inputs
and nothing else changes (R42; that it waits in this list is log 2). -/
def Obligations.HostOperationsWaitWhileBusy : Prop :=
  ∀ (s : State) (op : HostCode), s.seq ≠ 0x0#4 → s.seq.toNat ≤ 0xA →
    exec (decodeHostCode op) s = .next { s with inbox := Event.req op :: s.inbox }

/-- R180, R181: what the step that accepts a request does. A reserved code is answered ILLEGAL_OP and an operation that is
not legal in the present `lc` is answered SEQ_ERR, each with no other effect; a legal one is performed. -/
def Obligations.RequestDecode : Prop :=
  (∀ (lc : Lifecycle) (op : HostOp), legal lc op = true ↔
    (op = .prepare ∧ lc = .unprepared) ∨ (op = .enable ∧ (lc = .prepared ∨ lc = .disabled))
      ∨ (op = .disable ∧ lc = .enabled) ∨ (op = .unprepare ∧ lc ≠ .enabled) ∨ op = .getModes)
    ∧ ∀ (s : State) (op : HostCode) (rest : List Event), s.Sees (.req op) rest →
      (op = 0b000#3 ∨ op = 0b110#3 ∨ op = 0b111#3 →
        step s = .next ((s.taking rest).answered 0b100#3 0 0b00#2))
        ∧ ∀ o : HostOp, op = o.code →
          (legal s.lc o = false → step s = .next ((s.taking rest).answered 0b011#3 0 0b00#2))
            ∧ (legal s.lc o = true → step s = exec (decodeHostCode op) (s.taking rest)
              ∧ ∃ t, step s = .next t ∧ (t.seq = 0x0#4 → t.lastStatus = 0b000#3)
                ∧ (t.seq ≠ 0x0#4 → t.lastStatus = s.lastStatus))

/-! ## A step runs the decoded instruction -/

/-- A step runs the decoded instruction (R40): the step is `exec` of it, in the state with the input taken and no output
emitted yet, and with what the rules write before it.
First clause: a host code at the request port (R35, R180).
Second: an entry in the Script ROM, at the start of the script (R153), after a step with no data and after a last data byte
(R126); its bytes decode to `i`.
Third: a bus word: the sleep-out word (R151), and a data byte of the ROM (R122, R124). -/
def Obligations.StepRunsTheDecodedInstruction : Prop :=
  (∀ (s : State) (op : HostCode) (rest : List Event), s.seq = 0x0#4 → s.inbox = Event.req op :: rest →
    step s = exec (decodeHostCode op) (s.taking rest))
  ∧ (∀ (s : State) (rest : List Event) (i : Instr) (bytes : List Byte), decode s.cfg .step bytes = .ok (i, []) →
    (s.seq = 0x6#4 → s.delayCnt = 1#8 → s.Sees .tick rest → s.rom.readN 0 bytes.length = some bytes →
      step s = exec i { s.taking rest with delayCnt := 0#8, stepIdx := 0#8, romPtr := 0#16 })
    ∧ (s.seq = 0x7#4 → s.curLen = 0#8 → s.Sees (.busDone .ok) rest → (s.stepIdx + 1#8).toNat ≠ s.cfg.nSteps →
      s.rom.readN s.romPtr.toNat bytes.length = some bytes →
      step s = exec i { s.taking rest with stepIdx := s.stepIdx + 1#8 })
    ∧ (s.seq = 0x8#4 → s.byteIdx + 1#8 = s.curLen → s.Sees (.busDone .ok) rest →
      (s.stepIdx + 1#8).toNat ≠ s.cfg.nSteps →
      s.rom.readN (s.romPtr + 1#16).toNat bytes.length = some bytes →
      step s = exec i { s.taking rest with
        romPtr := s.romPtr + 1#16
        byteIdx := s.byteIdx + 1#8
        stepIdx := s.stepIdx + 1#8 }))
  ∧ (∀ (s : State) (rest : List Event) (b : Byte),
    (s.seq = 0x4#4 → s.delayCnt = 1#8 → s.Sees .tick rest →
      step s = exec (decodeBusWord (0b0#1 ++ s.cfg.slpoutCmd)) { s.taking rest with delayCnt := 0#8 })
    ∧ (s.seq = 0x7#4 → s.curLen ≠ 0#8 → s.Sees (.busDone .ok) rest → s.rom.read s.romPtr.toNat = some b →
      step s = exec (decodeBusWord (0b1#1 ++ b)) (s.taking rest))
    ∧ (s.seq = 0x8#4 → s.byteIdx + 1#8 ≠ s.curLen → s.Sees (.busDone .ok) rest →
      s.rom.read (s.romPtr + 1#16).toNat = some b →
      step s = exec (decodeBusWord (0b1#1 ++ b)) { s.taking rest with
        romPtr := s.romPtr + 1#16
        byteIdx := s.byteIdx + 1#8 }))

/-! ## Bus words and script entries -/

/-- R102 with R100 and R101: a bus word is issued in every used state. A Data word waits in `X_DATA`; a Command word waits in
`X_SLP` at the end of the post-reset delay and in `X_CMD` elsewhere (the choice of the caller's state is log 4). -/
def Obligations.BusWordsAreIssued : Prop :=
  ∀ s : State, s.seq.toNat ≤ 0xA →
    (∀ c : Byte, exec (.bwCmd c) s = .next (s.issued (0b0#1 ++ c) (if s.seq = 0x4#4 then 0x5#4 else 0x7#4)))
      ∧ (∀ d : Byte, exec (.bwData d) s = .next (s.issued (0b1#1 ++ d) 0x8#4))

/-- R121 for the three forms of an entry (R76, R77, R79): `begin_step` with the form's cmd and `len` byte, in every used
state. That executing an entry is `begin_step` for it, in a used state in which no rule begins one too, is log 5, the
model's reading. A STEP's `len` byte is its number of data bytes; for an ill-formed STEP of more than 255, which no bytes
decode to, it is that number modulo 256 (log 5). -/
def Obligations.ScriptEntriesBegin : Prop :=
  ∀ s : State, s.seq.toNat ≤ 0xA →
    (∀ (cmd : Byte) (data : List Byte), exec (.step cmd data) s
        = .next ((s.pastHeader (BitVec.ofNat 8 data.length)).issued (0b0#1 ++ cmd) 0x7#4))
      ∧ (∀ cmd : Byte, exec (.cmd cmd) s = .next ((s.pastHeader 0x00#8).issued (0b0#1 ++ cmd) 0x7#4))
      ∧ (∀ idx : Byte, exec (.bank idx) s = .next ((s.pastHeader 0x05#8).issued (0b0#1 ++ s.cfg.bankselCmd) 0x7#4))

/-- R79, R120: a pseudo form does what the STEP it stands for does, in every state. -/
def Obligations.PseudoFormsAreSteps : Prop :=
  ∀ (s : State) (i : Instr), exec (i.canonical s.cfg) s = exec i s

/-- R121, R126, R155: `begin_step` reads cmd and len at `rom_ptr`, moves past them and issues the Command word; where one of
the two is not mapped it is the fault `ScriptOOB` (R52). `next_step` begins the final delay after the last step, with 121
Ticks to come, and begins the next step before that. -/
def Obligations.BeginStepAndNextStep : Prop :=
  (∀ s : State, s.seq.toNat ≤ 0xA →
    (∀ c len : Byte, s.rom.read s.romPtr.toNat = some c → s.rom.read (s.romPtr.toNat + 1) = some len →
      beginStep s = .next ((s.pastHeader len).issued (0b0#1 ++ c) 0x7#4))
      ∧ (s.rom.read s.romPtr.toNat = none ∨ s.rom.read (s.romPtr.toNat + 1) = none →
        beginStep s = .fault .scriptOob))
    ∧ ∀ s : State,
      ((s.stepIdx + 1#8).toNat = s.cfg.nSteps →
        nextStep s = .next ({ s with stepIdx := s.stepIdx + 1#8 }.delaying 121 0x9#4))
        ∧ ((s.stepIdx + 1#8).toNat ≠ s.cfg.nSteps → nextStep s = beginStep { s with stepIdx := s.stepIdx + 1#8 })

/-- R122: in `X_CMD`, on `BusDone(Ok)`. A data byte that is not mapped is the fault `ScriptOOB` (R52). -/
def Obligations.CommandWordSent : Prop :=
  ∀ (s : State) (rest : List Event), s.seq = 0x7#4 → s.Sees (.busDone .ok) rest →
    (s.curLen = 0#8 → step s = nextStep (s.taking rest))
      ∧ (∀ b, s.curLen ≠ 0#8 → s.rom.read s.romPtr.toNat = some b →
        step s = .next ((s.taking rest).issued (0b1#1 ++ b) 0x8#4))
      ∧ (s.curLen ≠ 0#8 → s.rom.read s.romPtr.toNat = none → step s = .fault .scriptOob)

/-- R124: in `X_DATA`, on `BusDone(Ok)`. A data byte that is not mapped is the fault `ScriptOOB` (R52). -/
def Obligations.DataWordSent : Prop :=
  ∀ (s : State) (rest : List Event), s.seq = 0x8#4 → s.Sees (.busDone .ok) rest →
    let m : State := { s.taking rest with romPtr := s.romPtr + 1#16, byteIdx := s.byteIdx + 1#8 }
    (m.byteIdx = m.curLen → step s = nextStep m)
      ∧ (∀ b, m.byteIdx ≠ m.curLen → m.rom.read m.romPtr.toNat = some b →
        step s = .next (m.issued (0b1#1 ++ b) 0x8#4))
      ∧ (m.byteIdx ≠ m.curLen → m.rom.read m.romPtr.toNat = none → step s = .fault .scriptOob)

/-- R123, R125: a Command word or a Data word that fails ends the operation at once with BUS_ERR and the error value
unchanged; nothing is rolled back, and `lc` stays. (`ctl_known` becomes false by R33.) -/
def Obligations.FailedWordEndsTheOperation : Prop :=
  ∀ (s : State) (rest : List Event) (e : Nat), s.seq = 0x7#4 ∨ s.seq = 0x8#4 → s.Sees (.busDone (.err e)) rest →
    step s = .next ({ s.taking rest with ctlKnown := false }.answered 0b001#3 e 0b00#2)

/-! ## The bring-up sequence and power -/

/-- R183: in `P_PWR`, on `PwrDone(r)`; neither this step nor any other step in `P_PWR`, nor PREPARE's first step, drives
the reset line or the bus. -/
def Obligations.PowerEnableAnswered : Prop :=
  (∀ (s : State) (rest : List Event), s.seq = 0x1#4 →
    (s.Sees (.pwrDone .ok) rest → step s = .next ((s.taking rest).delaying 121 0x2#4))
      ∧ (∀ e, s.Sees (.pwrDone (.err e)) rest → step s = .next ((s.taking rest).answered 0b010#3 e 0b00#2)))
    ∧ (∀ s t : State, s.seq = 0x1#4 → step s = .next t →
      ∀ w l, OutEvent.busXfer w ∉ t.outs ∧ OutEvent.rstSet l ∉ t.outs)
    ∧ (∀ s : State, s.seq = 0x0#4 → s.lc = .unprepared →
      ∃ t, exec .prepare s = .next t ∧ t.seq = 0x1#4 ∧ t.outs = s.outs ++ [OutEvent.pwrReq true])

/-- R184: when the power settle ends, reset is asserted and the reset pulse begins, with `T_RST_MS` + 1 Ticks to come. -/
def Obligations.PowerSettleEnds : Prop :=
  ∀ (s : State) (rest : List Event), s.seq = 0x2#4 → s.delayCnt = 1#8 → s.Sees .tick rest →
    step s = .next ({ s.taking rest with
      rstAssert := true
      outs := [OutEvent.rstSet true]
      trace := s.trace ++ [OutEvent.rstSet true] }.delaying (s.cfg.tRstMs + 1) 0x3#4)

/-- R185: when the reset pulse ends, reset is deasserted and the post-reset settle begins. For a valid configuration the
pulse that R184 starts takes between 31 and 120 Ticks, its 8-bit counter holding the number exactly. -/
def Obligations.ResetPulseEnds : Prop :=
  (∀ (s : State) (rest : List Event), s.seq = 0x3#4 → s.delayCnt = 1#8 → s.Sees .tick rest →
    step s = .next ({ s.taking rest with
      rstAssert := false
      outs := [OutEvent.rstSet false]
      trace := s.trace ++ [OutEvent.rstSet false] }.delaying 121 0x4#4))
    ∧ ∀ s : State, s.cfg.valid = true →
      (s.delaying (s.cfg.tRstMs + 1) 0x3#4).delayCnt.toNat = s.cfg.tRstMs + 1
        ∧ 31 ≤ s.cfg.tRstMs + 1 ∧ s.cfg.tRstMs + 1 ≤ 120

/-- R186, R151: when the post-reset settle ends, the sleep-out Command word is issued. -/
def Obligations.PostResetSettleEnds : Prop :=
  ∀ (s : State) (rest : List Event), s.seq = 0x4#4 → s.delayCnt = 1#8 → s.Sees .tick rest →
    step s = .next ({ s.taking rest with delayCnt := 0#8 }.issued (0b0#1 ++ s.cfg.slpoutCmd) 0x5#4)

/-- R152: in `X_SLP`, on `BusDone(r)`: the sleep-out settle, counted from here, or the end with BUS_ERR. (`ctl_known`
becomes false by R33.) -/
def Obligations.SleepOutSent : Prop :=
  ∀ (s : State) (rest : List Event), s.seq = 0x5#4 →
    (s.Sees (.busDone .ok) rest → step s = .next ((s.taking rest).delaying 121 0x6#4))
      ∧ (∀ e, s.Sees (.busDone (.err e)) rest →
        step s = .next ({ s.taking rest with ctlKnown := false }.answered 0b001#3 e 0b00#2))

/-- R153: when the sleep-out settle ends, the script begins at step 0, address 0; a ROM without a header there is the fault
`ScriptOOB` (R52). -/
def Obligations.ScriptBegins : Prop :=
  ∀ (s : State) (rest : List Event), s.seq = 0x6#4 → s.delayCnt = 1#8 → s.Sees .tick rest →
    (∀ c len : Byte, s.rom.read 0 = some c → s.rom.read 1 = some len →
      step s = .next (({ s.taking rest with
        delayCnt := 0#8
        stepIdx := 0#8
        romPtr := 0#16 }.pastHeader len).issued (0b0#1 ++ c) 0x7#4))
      ∧ (s.rom.read 0 = none ∨ s.rom.read 1 = none → step s = .fault .scriptOob)

/-- R156: when the final settle ends, the panel is ready: `lc` becomes `Prepared` in the step that answers OK, and in no other
step. (`ctl_known` becomes true by R33.) -/
def Obligations.FinalSettleEnds : Prop :=
  (∀ (s : State) (rest : List Event), s.seq = 0x9#4 → s.delayCnt = 1#8 → s.Sees .tick rest →
    step s = .next ({ s.taking rest with
      delayCnt := 0#8
      lc := .prepared
      ctlKnown := true }.answered 0b000#3 0 0b00#2))
    ∧ ∀ s t : State, step s = .next t → t.lc = .prepared → s.lc ≠ .prepared → s.seq = 0x9#4

/-- R192: in `U_PWR`, on `PwrDone(r)`. (That `ctl_known` becomes false on either answer is log 11.) -/
def Obligations.PowerDisableAnswered : Prop :=
  ∀ (s : State) (rest : List Event), s.seq = 0xA#4 →
    (s.Sees (.pwrDone .ok) rest →
      step s = .next ({ s.taking rest with lc := .unprepared, ctlKnown := false }.answered 0b000#3 0 0b00#2))
      ∧ (∀ e, s.Sees (.pwrDone (.err e)) rest →
        step s = .next ({ s.taking rest with ctlKnown := false }.answered 0b010#3 e 0b00#2))

/-- R231: in a delay state a Tick lowers `delay_cnt` by one and does nothing else while more are needed; the last one
continues with the rule of that state. -/
def Obligations.TickCountsDown : Prop :=
  ∀ (s : State) (rest : List Event), s.Sees .tick rest →
    ((s.seq = 0x2#4 ∨ s.seq = 0x3#4 ∨ s.seq = 0x4#4 ∨ s.seq = 0x6#4 ∨ s.seq = 0x9#4) → 2 ≤ s.delayCnt.toNat →
      ∃ t, step s = .next t ∧ t = { s.taking rest with delayCnt := s.delayCnt - 1#8 }
        ∧ t.delayCnt.toNat = s.delayCnt.toNat - 1)
    ∧ (s.delayCnt = 1#8 →
      (s.seq = 0x2#4 → step s = .next (assertReset { s.taking rest with delayCnt := 0#8 }))
      ∧ (s.seq = 0x3#4 → step s = .next (deassertReset { s.taking rest with delayCnt := 0#8 }))
      ∧ (s.seq = 0x4#4 → step s = runBringup { s.taking rest with delayCnt := 0#8 })
      ∧ (s.seq = 0x6#4 → step s = beginScript { s.taking rest with delayCnt := 0#8 })
      ∧ (s.seq = 0x9#4 → step s = .next (declareReady { s.taking rest with delayCnt := 0#8 })))

/-- R231, R232: a delay with `n` Ticks to come takes exactly `n` of them. Any `k` < `n` Ticks leave it running with
`n` − `k` to come, and the block emits nothing and changes nothing else meanwhile. -/
def Obligations.DelayTakesAllItsTicks : Prop :=
  ∀ (s : State) (k : Nat) (rest : List Event),
    (s.seq = 0x2#4 ∨ s.seq = 0x3#4 ∨ s.seq = 0x4#4 ∨ s.seq = 0x6#4 ∨ s.seq = 0x9#4) →
    k < s.delayCnt.toNat → s.inbox = ticks k ++ rest →
    ∃ t, runFor k s = .next t
      ∧ t = { s with
          delayCnt := s.delayCnt - BitVec.ofNat 8 k
          inbox := rest
          outs := if k = 0 then s.outs else [] }
      ∧ t.delayCnt.toNat = s.delayCnt.toNat - k

/-! ## Held, ignored and missing inputs; faults -/

/-- R42: a request is enabled in `IDLE` only. In every other state no step takes one: the requests among the inputs stay, all
of them and in their order, whatever else the step does; and in `IDLE` the first input is taken if it is a request. (That
held requests keep their places, and so their order, is log 2, the model's choice.) -/
def Obligations.RequestsAreHeldUntilIdle : Prop :=
  (∀ s : State, s.reqReady = true ↔ s.seq = 0x0#4)
    ∧ (∀ s t : State, s.seq ≠ 0x0#4 → step s = .next t →
      t.inbox.filter Event.isRequest = s.inbox.filter Event.isRequest)
    ∧ (∀ (s : State) (op : HostCode) (rest : List Event), s.seq = 0x0#4 → s.inbox = Event.req op :: rest →
      ∃ t, step s = .next t ∧ t.inbox = rest)

/-- R40, R43: an event in a cell marked "ignore" changes no field of the block and emits nothing. (The ghost `ctl_known`
becomes false at any `BusDone(Err)`, R33, log 11.)
R227 (c), (d), for the inputs of one cycle: at most one of them acts; the cycle is the step of that one, taken in the state
the cycle begins in, and the others change nothing; with none that acts nothing happens. So a Tick that comes together with
the answer to a transfer or to a power request is ignored: the cycle is the one without it. (How a cycle's events are put in
order is log 20.) -/
def Obligations.IgnoredEventsChangeNothing : Prop :=
  (∀ (s : State) (rest : List Event), s.seq.toNat ≤ 0xA →
    (∀ r, s.Sees (.pwrDone r) rest → s.seq ≠ 0x1#4 → s.seq ≠ 0xA#4 → step s = .next (s.taking rest))
      ∧ (s.Sees (.busDone .ok) rest → s.busValid = false → step s = .next (s.taking rest))
      ∧ (∀ e, s.Sees (.busDone (.err e)) rest → s.busValid = false →
        step s = .next { s.taking rest with ctlKnown := false })
      ∧ (s.Sees .tick rest →
        (s.seq = 0x0#4 ∨ s.seq = 0x1#4 ∨ s.seq = 0x5#4 ∨ s.seq = 0x7#4 ∨ s.seq = 0x8#4 ∨ s.seq = 0xA#4) →
        step s = .next (s.taking rest)))
    ∧ ∀ (s : State) (c : PortCycle), s.seq.toNat ≤ 0xA →
      ((portEvents s c).filter s.acts).length ≤ 1
        ∧ (∀ e ∈ portEvents s c, s.acts e = true →
          cycle c s = step { s with inbox := e :: s.inbox, ctlKnown := s.ctlKnown && !(c.busDone && c.busFail) })
        ∧ ((∀ e ∈ portEvents s c, s.acts e = false) →
          cycle c s = .next { s with outs := [], ctlKnown := s.ctlKnown && !(c.busDone && c.busFail) })
        ∧ (s.busValid = true → c.busDone = true → cycle c s = cycle { c with tickMs := false } s)
        ∧ (s.pwrValid = true → c.pwrDone = true → cycle c s = cycle { c with tickMs := false } s)

/-- R271: without an answer the block waits for ever. While a transfer or a power request is outstanding and the inputs hold
no answer to it and no block reset, any number of steps leaves it waiting, with nothing emitted. -/
def Obligations.NoAnswerNoProgress : Prop :=
  ∀ (s : State) (n : Nat),
    (s.busValid = true → (∀ r, Event.busDone r ∉ s.inbox) → Event.blockReset ∉ s.inbox →
      ∃ t, runFor n s = .next t ∧ t.seq = s.seq ∧ t.lc = s.lc ∧ t.busWord = s.busWord ∧ t.trace = s.trace
        ∧ t.reqReady = false)
      ∧ (s.pwrValid = true → (∀ r, Event.pwrDone r ∉ s.inbox) → Event.blockReset ∉ s.inbox →
        ∃ t, runFor n s = .next t ∧ t.seq = s.seq ∧ t.lc = s.lc ∧ t.busWord = s.busWord ∧ t.trace = s.trace
          ∧ t.reqReady = false)

/-- R22, R40: with `seq` outside 0x0 to 0xA every instruction and every step but a block reset faults `BadSeq`, and no step
enters such a state. R40 gives the fault for its four events; that a step with no input and every meaning of `exec` give it
too is log 16, and that a block reset acts in such a state is log 12: both are the model's choices. -/
def Obligations.BadSeqFaults : Prop :=
  (∀ s : State, 0xB ≤ s.seq.toNat →
    (∀ i : Instr, exec i s = .fault .badSeq)
      ∧ (s.inbox.head? ≠ some Event.blockReset → step s = .fault .badSeq))
    ∧ ∀ s t : State, step s = .next t → t.seq.toNat ≤ 0xA

/-! ## Whole-machine rules -/

/-- R60, R9: no step changes the Script ROM, the mode registers or the parameters, and no instruction does. -/
def Obligations.RomAndParametersNeverChange : Prop :=
  (∀ s t : State, step s = .next t → t.rom = s.rom ∧ t.cfg = s.cfg ∧ ∀ a, t.modeData a = s.modeData a)
    ∧ ∀ (i : Instr) (s t : State), exec i s = .next t → t.rom = s.rom ∧ t.cfg = s.cfg

/-- R41, R57: the trace grows by exactly the step's outputs; a step has at most one output, and at most one collaborator
request is outstanding. After `BusXfer` nothing is emitted until `BusDone`, after `PwrReq` nothing until `PwrDone`, and
`RstSet` takes effect at once. -/
def Obligations.OneRequestOutstanding : Prop :=
  ∀ s t : State, step s = .next t →
    t.trace = s.trace ++ t.outs ∧ t.outs.length ≤ 1 ∧ ¬ (t.busValid = true ∧ t.pwrValid = true)
      ∧ (∀ w, OutEvent.busXfer w ∈ t.outs → t.busValid = true ∧ t.busWord = w)
      ∧ (∀ b, OutEvent.pwrReq b ∈ t.outs → t.pwrValid = true ∧ t.pwrOn = b)
      ∧ (∀ l, OutEvent.rstSet l ∈ t.outs → t.rstOut = l)
      ∧ (s.busValid = true → t.outs ≠ [] → ∃ r rest, s.Sees (.busDone r) rest)
      ∧ (s.pwrValid = true → t.outs ≠ [] → ∃ r rest, s.Sees (.pwrDone r) rest)

/-- R226: a response is the last output of its operation: it is the only output of its step, and the block is in `IDLE`,
with `last_status` the status it carries. -/
def Obligations.ResponsesEndTheOperation : Prop :=
  ∀ (s t : State) (st : StatusCode) (e : Nat) (n : BitVec 2), step s = .next t → OutEvent.respond st e n ∈ t.outs →
    t.outs = [OutEvent.respond st e n] ∧ t.seq = 0x0#4 ∧ t.lastStatus = st ∧ t.response = some (st, e, n)

/-- R25, R26, R27: who writes `last_status`, `rst_assert` and `bus_word`: only a step that responds, that sets the reset
line, that starts a transfer, and block reset. -/
def Obligations.OutputRegistersChangeWithTheirOutputs : Prop :=
  ∀ s t : State, step s = .next t → (¬ ∃ rest, s.Sees .blockReset rest) →
    (t.lastStatus ≠ s.lastStatus → ∃ e n, t.outs = [OutEvent.respond t.lastStatus e n])
      ∧ (t.rstAssert ≠ s.rstAssert → t.outs = [OutEvent.rstSet t.rstAssert])
      ∧ (t.busWord ≠ s.busWord → t.outs = [OutEvent.busXfer t.busWord])

/-- R21: `lc` changes only in the step that completes an operation with success (or by block reset). -/
def Obligations.LifecycleChangesOnlyOnSuccess : Prop :=
  ∀ s t : State, step s = .next t → (¬ ∃ rest, s.Sees .blockReset rest) → t.lc ≠ s.lc →
    t.outs = [OutEvent.respond 0b000#3 0 0b00#2] ∧ t.seq = 0x0#4

/-- R104: a failed transfer ends its operation with BUS_ERR and the error unchanged, whatever the word, and in `IDLE`, where
that leaves the block, no step starts a transfer: the word is not sent again and no other word follows it. -/
def Obligations.NoWordAfterAFailure : Prop :=
  (∀ (s : State) (rest : List Event) (e : Nat), s.busValid = true → s.Sees (.busDone (.err e)) rest →
    ∃ t, step s = .next t ∧ t.outs = [OutEvent.respond 0b001#3 e 0b00#2] ∧ t.seq = 0x0#4 ∧ t.lc = s.lc)
    ∧ ∀ (s t : State) (w : BusWord), s.seq = 0x0#4 → step s = .next t → OutEvent.busXfer w ∉ t.outs

/-- R33: the ghost `ctl_known` becomes true only in the step that completes a PREPARE with success, and is false after any
`BusDone(Err)` and after an answered power-disable (either answer: log 11). -/
def Obligations.ControllerKnownOnlyAfterPrepare : Prop :=
  (∀ s t : State, step s = .next t → t.ctlKnown = true → s.ctlKnown = false →
    s.seq = 0x9#4 ∧ t.lc = .prepared ∧ t.outs = [OutEvent.respond 0b000#3 0 0b00#2])
    ∧ (∀ (s t : State) (e : Nat) (rest : List Event), s.Sees (.busDone (.err e)) rest → step s = .next t →
      t.ctlKnown = false)
    ∧ (∀ (s t : State) (r : Reply) (rest : List Event), s.seq = 0xA#4 → s.Sees (.pwrDone r) rest → step s = .next t →
      t.ctlKnown = false)

/-! ## The invariant -/

/-- The invariant holds in the reset state of every valid configuration, this block's among them (R250, R253). -/
def Obligations.CleanLaunchMeetsTheInvariant : Prop :=
  (∀ s : State, s.cleanLaunch → s.Inv) ∧ State.reset.cleanLaunch

/-- Every step keeps the invariant, from every state that meets it, whatever inputs it holds. -/
def Obligations.StepKeepsTheInvariant : Prop :=
  ∀ s t : State, s.Inv → step s = .next t → t.Inv

/-- R22, R52: in a state that meets the invariant a step never stops: neither `BadSeq` nor `ScriptOOB` can happen for a
valid configuration. -/
def Obligations.InvariantStatesNeverStop : Prop :=
  ∀ s : State, s.Inv → ∃ t, step s = .next t

/-- R187, R221, R222: how a PREPARE ends. Its response is OK with `lc` = `Prepared`, or BUS_ERR or PWR_ERR with `lc` still
`Unprepared`; `rst_assert` is 0 in each case. -/
def Obligations.OutcomeOfPrepare : Prop :=
  ∀ (s t : State) (st : StatusCode) (e : Nat) (n : BitVec 2), s.Inv → s.seq ≠ 0x0#4 → s.seq ≠ 0xA#4 →
    step s = .next t → OutEvent.respond st e n ∈ t.outs →
    t.rstAssert = false ∧ n = 0b00#2
      ∧ ((st = 0b000#3 ∧ e = 0 ∧ t.lc = .prepared) ∨ ((st = 0b001#3 ∨ st = 0b010#3) ∧ t.lc = .unprepared))

/-- R72, R169: the block sends only the sleep-out word and the words of its script. -/
def Obligations.OnlyScriptWordsAreSent : Prop :=
  ∀ (s t : State) (w : BusWord), s.Inv → step s = .next t → OutEvent.busXfer w ∈ t.outs →
    w = busEncode .command s.cfg.slpoutCmd ∨ w ∈ scriptWords s.cfg.script

/-! ## Runs of the executor -/

/-- R127: a step of the script, begun at its entry and with every transfer succeeding, sends its Command word and then its
Data words in source order, each after the one before has completed, and nothing else; `byte_idx` and `rom_ptr` end at its
last word. -/
def Obligations.StepSendsItsWordsInOrder : Prop :=
  ∀ (s : State) (st : ScriptStep) (rest : List Event), s.cfg.valid = true → s.rom = romOf s.cfg → s.seq.toNat ≤ 0xA →
    s.cfg.script[s.stepIdx.toNat]? = some st → s.romPtr.toNat = s.cfg.stepBase s.stepIdx.toNat →
    s.inbox = busOks st.data.length ++ rest →
    ∃ s1 t, beginStep s = .next s1 ∧ runFor st.data.length s1 = .next t
      ∧ t.trace = s.trace ++ transfers (busEncode .command st.cmd :: st.data.map (busEncode .data))
      ∧ t.inbox = rest ∧ t.stepIdx = s.stepIdx ∧ t.curLen.toNat = st.data.length
      ∧ t.romPtr.toNat = s.cfg.stepBase s.stepIdx.toNat + 2 + t.byteIdx.toNat
      ∧ (st.data = [] → t.seq = 0x7#4 ∧ t.byteIdx = 0#8)
      ∧ (st.data ≠ [] → t.seq = 0x8#4 ∧ t.byteIdx.toNat + 1 = st.data.length)

/-- R194, R154: a PREPARE in which every collaborator succeeds, from any state that meets the invariant, idle and
`Unprepared`. It takes every input given to it, emits exactly the trace of R194 and ends in the state the rules give. -/
def Obligations.SuccessfulPrepare : Prop :=
  ∀ (s : State) (rest : List Event), s.Inv → s.seq = 0x0#4 → s.lc = .unprepared →
    s.inbox = prepareInputs s.cfg ++ rest →
    runFor (prepareInputs s.cfg).length s = .next
      { s with
        lc := .prepared
        seq := 0x0#4
        stepIdx := BitVec.ofNat 8 s.cfg.nSteps
        romPtr := BitVec.ofNat 16 s.cfg.scriptBytes
        curLen := 0#8
        byteIdx := 0#8
        delayCnt := 0#8
        rstAssert := false
        lastStatus := 0b000#3
        busWord := busEncode .command s.cfg.disponCmd
        ctlKnown := true
        inbox := rest
        outs := [OutEvent.respond 0b000#3 0 0b00#2]
        trace := s.trace ++ prepareTrace s.cfg }

/-- R128: fail fast. If transfer `k` of a script run is the first to fail, the run makes exactly `k` transfers, the first
`k` words of the script in order, and then responds BUS_ERR with the error unchanged. -/
def Obligations.ScriptStopsAtTheFirstFailure : Prop :=
  ∀ (s : State) (k e : Nat) (rest : List Event), s.Inv → s.seq = 0x6#4 → s.delayCnt = 1#8 →
    1 ≤ k → k ≤ (scriptWords s.cfg.script).length →
    s.inbox = Event.tick :: (busOks (k - 1) ++ Event.busDone (.err e) :: rest) →
    ∃ t, runFor (k + 1) s = .next t
      ∧ t.trace = s.trace ++ (transfers ((scriptWords s.cfg.script).take k) ++ [OutEvent.respond 0b001#3 e 0b00#2])
      ∧ t.outs = [OutEvent.respond 0b001#3 e 0b00#2]
      ∧ t.seq = 0x0#4 ∧ t.lc = .unprepared ∧ t.rstAssert = false ∧ t.lastStatus = 0b001#3 ∧ t.inbox = rest

/-- R154, R266: a PREPARE in which every collaborator succeeds, from any state that meets the invariant, idle and
`Unprepared`, adds these outputs to the trace, in this order: power on and the reset pulse, sleep-out, the Bank-0 select, the
Bank-0 phase, the Bank-1 select, the Bank-1 phase, the bank disable, COLMOD, DISPON last, and the answer OK; and there is no
bank select inside a phase. -/
def Obligations.BringUpOrder : Prop :=
  ∀ (s : State) (rest : List Event), s.Inv → s.seq = 0x0#4 → s.lc = .unprepared →
    s.inbox = prepareInputs s.cfg ++ rest →
    ∃ (t : State) (B0 B1 : List ScriptStep), runFor (prepareInputs s.cfg).length s = .next t
      ∧ (∀ st ∈ B0 ++ B1, st.cmd ≠ s.cfg.bankselCmd)
      ∧ t.trace = s.trace ++ [OutEvent.pwrReq true, OutEvent.rstSet true, OutEvent.rstSet false]
        ++ transfers ([busEncode .command s.cfg.slpoutCmd]
          ++ stepWords (s.cfg.bankStep s.cfg.bank0Sel) ++ scriptWords B0
          ++ stepWords (s.cfg.bankStep s.cfg.bank1Sel) ++ scriptWords B1
          ++ stepWords (s.cfg.bankStep 0x00#8)
          ++ [busEncode .command s.cfg.colmodCmd, busEncode .data s.cfg.colmodArg,
            busEncode .command s.cfg.disponCmd])
        ++ [OutEvent.respond 0b000#3 0 0b00#2]

/-- R195: PREPARE and then UNPREPARE, every collaborator succeeding: one power-enable, one power-disable, both answered OK, and
the script pointers left where the script ended. -/
def Obligations.PrepareThenUnprepare : Prop :=
  ∀ (s : State) (rest : List Event), s.Inv → s.seq = 0x0#4 → s.lc = .unprepared →
    s.inbox = prepareInputs s.cfg ++ Event.req 0b100#3 :: Event.pwrDone .ok :: rest →
    ∃ t, runFor ((prepareInputs s.cfg).length + 2) s = .next t
      ∧ t.trace = s.trace ++ prepareTrace s.cfg ++ [OutEvent.pwrReq false, OutEvent.respond 0b000#3 0 0b00#2]
      ∧ (prepareTrace s.cfg).count (OutEvent.pwrReq true) = 1
      ∧ (prepareTrace s.cfg).count (OutEvent.pwrReq false) = 0
      ∧ t.lc = .unprepared ∧ t.seq = 0x0#4 ∧ t.lastStatus = 0b000#3 ∧ t.rstAssert = false ∧ t.inbox = rest
      ∧ t.romPtr.toNat = s.cfg.scriptBytes
end

