-- ==== Sys2Proof/Laws/Codes.lean ====
section
/-! SUPPORT. The codes of the sequencer and of the host, and the bus-word encoder, as rewriting rules. -/

namespace Sys2Proof.Machine

@[simp] theorem seqOf_code (q : SeqState) : seqOf q.code = some q := by cases q <;> rfl

theorem seqOf_eq_some_iff (c : SeqCode) (q : SeqState) : seqOf c = some q ↔ c = q.code := by
  cases q <;> revert c <;> decide

theorem seqOf_eq_none_iff (c : SeqCode) : seqOf c = none ↔ 0xB ≤ c.toNat := by
  revert c
  decide

theorem SeqState.code_inj (p q : SeqState) (h : p.code = q.code) : p = q := by
  have := congrArg seqOf h
  simpa using this

@[simp] theorem decodeHostCode_code (op : HostOp) :
    decodeHostCode op.code = match op with
      | .prepare => .prepare
      | .enable => .enable
      | .disable => .disable
      | .unprepare => .unprepare
      | .getModes => .getModes := by
  cases op <;> rfl

/-- A host code is one of the eight host operations. -/
theorem decodeHostCode_cases (op : HostCode) :
    decodeHostCode op = .reserved000 ∨ decodeHostCode op = .prepare ∨ decodeHostCode op = .enable
      ∨ decodeHostCode op = .disable ∨ decodeHostCode op = .unprepare ∨ decodeHostCode op = .getModes
      ∨ decodeHostCode op = .reserved110 ∨ decodeHostCode op = .reserved111 := by
  revert op
  decide

end Sys2Proof.Machine
end

