-- ==== Sys2Proof/Laws/Memory.lean ====
section
/-! SUPPORT. The Script ROM: what is read where, and the canonical form. -/

namespace Sys2Proof

/-- The image has as many bytes as the entries take. -/
theorem scriptImage_length (l : List ScriptStep) : (scriptImage l).length = scriptSize l := by
  induction l with
  | nil => rfl
  | cons st rest ih => simp [scriptImage, scriptSize, ScriptStep.entry, ih]; omega

theorem scriptImage_append (l₁ l₂ : List ScriptStep) :
    scriptImage (l₁ ++ l₂) = scriptImage l₁ ++ scriptImage l₂ := by
  induction l₁ with
  | nil => rfl
  | cons st rest ih => simp [scriptImage, ih]

theorem scriptSize_append (l₁ l₂ : List ScriptStep) :
    scriptSize (l₁ ++ l₂) = scriptSize l₁ + scriptSize l₂ := by
  rw [← scriptImage_length, scriptImage_append, List.length_append, scriptImage_length, scriptImage_length]

/-- Where the next step starts: `base_{i+1} = base_i + 2 + n_i` (R51). -/
theorem Config.stepBase_succ (c : Config) (i : Nat) (st : ScriptStep) (h : c.script[i]? = some st) :
    c.stepBase (i + 1) = c.stepBase i + (2 + st.data.length) := by
  obtain ⟨hi, rfl⟩ := List.getElem?_eq_some_iff.mp h
  rw [Config.stepBase, List.take_succ_eq_append_getElem hi, scriptSize_append]
  simp [Config.stepBase, scriptSize]

theorem Config.stepBase_le (c : Config) (i : Nat) : c.stepBase i ≤ c.scriptBytes := by
  unfold Config.stepBase Config.scriptBytes
  conv_rhs => rw [← List.take_append_drop i c.script, scriptSize_append]
  omega

/-- An entry ends inside the image. -/
theorem Config.stepBase_end (c : Config) (i : Nat) (st : ScriptStep) (h : c.script[i]? = some st) :
    c.stepBase i + 2 + st.data.length ≤ c.scriptBytes := by
  have := c.stepBase_le (i + 1)
  rw [c.stepBase_succ i st h] at this
  omega

/-- A valid configuration passes each check. -/
theorem Config.valid_passes (c : Config) (h : c.valid = true) (k : ScriptCheck) : k.passes c = true := by
  have h2 : c.failedChecks = [] := by
    simp only [Config.valid, Bool.and_eq_true, List.isEmpty_iff] at h
    exact h.2
  have := List.filter_eq_nil_iff.mp h2 k (by cases k <;> decide)
  simpa using this

theorem Config.valid_scriptBytes (c : Config) (h : c.valid = true) : c.scriptBytes ≤ 65535 := by
  have := c.valid_passes h .chkLength
  simp only [ScriptCheck.passes, Config.chkLength, Bool.and_eq_true, decide_eq_true_eq] at this
  exact this.2

theorem Config.valid_nSteps (c : Config) (h : c.valid = true) : 5 ≤ c.nSteps ∧ c.nSteps ≤ 255 := by
  have := c.valid_passes h .chkLength
  simp only [ScriptCheck.passes, Config.chkLength, Bool.and_eq_true, decide_eq_true_eq] at this
  exact ⟨this.1.1.1, this.1.1.2⟩

theorem Config.valid_dataLength (c : Config) (h : c.valid = true) (st : ScriptStep) (hs : st ∈ c.script) :
    st.data.length ≤ 255 := by
  have := c.valid_passes h .chkLength
  simp only [ScriptCheck.passes, Config.chkLength, Bool.and_eq_true, decide_eq_true_eq, List.all_eq_true] at this
  exact this.1.2 st hs

theorem Config.valid_ranges (c : Config) (h : c.valid = true) : 30 ≤ c.tRstMs ∧ c.tRstMs ≤ 119 ∧ 1 ≤ c.errW := by
  simp only [Config.valid, Config.paramsInRange, Bool.and_eq_true, decide_eq_true_eq] at h
  exact ⟨h.1.1.1, h.1.1.2, h.1.2⟩

namespace Machine

/-- Reading what was loaded from `base` on: the byte at that offset, and nothing elsewhere (R52). -/
theorem Memory.read_ofBytes (bs : List Byte) (base a : Nat) :
    (Memory.ofBytes base bs).read a = if base ≤ a then bs[a - base]? else none := by
  induction bs generalizing base with
  | nil => simp [ofBytes, read]
  | cons b rest ih =>
    simp only [ofBytes, read]
    by_cases h : base = a
    · simp [h]
    · rw [if_neg h, ih]
      by_cases h2 : base + 1 ≤ a
      · have : a - base = (a - (base + 1)) + 1 := by omega
        simp [h2, show base ≤ a by omega, this]
      · simp [h2, show ¬ base ≤ a by omega]

/-- Loading keeps the canonical form where the bytes fit the address space. -/
theorem Memory.risingFrom_ofBytes (bs : List Byte) (lo base : Nat) (hlo : lo ≤ base)
    (h : base + bs.length ≤ 65536) : Memory.risingFrom lo (Memory.ofBytes base bs) = true := by
  induction bs generalizing lo base with
  | nil => rfl
  | cons b rest ih =>
    simp only [List.length_cons] at h
    simp only [ofBytes, risingFrom, Bool.and_eq_true, decide_eq_true_eq]
    exact ⟨⟨hlo, by omega⟩, ih (base + 1) (base + 1) (by omega) (by omega)⟩

theorem Memory.wf_ofBytes (bs : List Byte) (base : Nat) (h : base + bs.length ≤ 65536) :
    (Memory.ofBytes base bs).wf = true :=
  Memory.risingFrom_ofBytes bs 0 base (Nat.zero_le _) h

/-- The ROM of a valid configuration is in canonical form. -/
theorem romOf_wf (c : Config) (h : c.valid = true) : (romOf c).wf = true := by
  apply Memory.wf_ofBytes
  have := c.valid_scriptBytes h
  rw [scriptImage_length]
  simp only [Config.scriptBytes] at this
  omega

/-- The ROM of the reset state is in canonical form. -/
theorem reset_rom_wf : State.reset.rom.wf = true := romOf_wf _ Config.build.ok

/-- `ScriptRead` on the ROM of a configuration is the image (R52). -/
theorem read_romOf (c : Config) (a : Nat) : (romOf c).read a = (scriptImage c.script)[a]? := by
  simp [romOf, Memory.read_ofBytes]

/-- The image from the start of step `i` on. -/
theorem image_at_step (c : Config) (i : Nat) (st : ScriptStep) (h : c.script[i]? = some st) (k : Nat)
    (hk : k < 2 + st.data.length) :
    (scriptImage c.script)[c.stepBase i + k]? = st.entry[k]? := by
  obtain ⟨hi, rfl⟩ := List.getElem?_eq_some_iff.mp h
  have hsplit : c.script = c.script.take i ++ c.script[i] :: c.script.drop (i + 1) := by
    rw [List.cons_getElem_drop_succ, List.take_append_drop]
  conv_lhs => rw [hsplit, scriptImage_append]
  rw [show c.stepBase i = (scriptImage (c.script.take i)).length from (scriptImage_length _).symm,
    List.getElem?_append_right (by omega), Nat.add_sub_cancel_left, scriptImage, List.getElem?_append_left]
  simp [ScriptStep.entry]
  omega

/-- The header of step `i`: its cmd byte and its len byte (R51, R76). -/
theorem read_header (c : Config) (i : Nat) (st : ScriptStep) (h : c.script[i]? = some st) :
    (romOf c).read (c.stepBase i) = some st.cmd
      ∧ (romOf c).read (c.stepBase i + 1) = some (BitVec.ofNat 8 st.data.length) := by
  have h0 := image_at_step c i st h 0 (by omega)
  have h1 := image_at_step c i st h 1 (by omega)
  simp only [Nat.add_zero] at h0
  rw [read_romOf, read_romOf, h0, h1]
  exact ⟨rfl, rfl⟩

/-- The data bytes of step `i` (R51, R76). -/
theorem read_data (c : Config) (i : Nat) (st : ScriptStep) (h : c.script[i]? = some st) (k : Nat)
    (hk : k < st.data.length) : (romOf c).read (c.stepBase i + 2 + k) = st.data[k]? := by
  have := image_at_step c i st h (k + 2) (by omega)
  rw [read_romOf, show c.stepBase i + 2 + k = c.stepBase i + (k + 2) by omega, this]
  simp [ScriptStep.entry]

/-- The mapped bytes of a run of addresses. -/
theorem Memory.readN_length (m : Memory) (n a : Nat) (bs : List Byte) (h : m.readN a n = some bs) : bs.length = n := by
  induction n generalizing a bs with
  | zero => simp only [readN, Option.some.injEq] at h; simp [← h]
  | succ n ih =>
    simp only [readN] at h
    split at h
    · next b bs' _ h2 =>
      simp only [Option.some.injEq] at h
      simp [← h, ih _ _ h2]
    · simp at h

end Machine
end Sys2Proof
end

