-- ==== Sys2Proof/Laws/State.lean ====
section
/-! SUPPORT. One lemma per field for each update of the state and each shared operation: what it writes and what it keeps. -/

namespace Sys2Proof.Machine

/-! ### `goto` -/

@[simp] theorem goto_cfg (s : State) (q : SeqState) : (s.goto q).cfg = s.cfg := rfl
@[simp] theorem goto_rom (s : State) (q : SeqState) : (s.goto q).rom = s.rom := rfl
@[simp] theorem goto_lc (s : State) (q : SeqState) : (s.goto q).lc = s.lc := rfl
@[simp] theorem goto_seq (s : State) (q : SeqState) : (s.goto q).seq = q.code := rfl
@[simp] theorem goto_stepIdx (s : State) (q : SeqState) : (s.goto q).stepIdx = s.stepIdx := rfl
@[simp] theorem goto_romPtr (s : State) (q : SeqState) : (s.goto q).romPtr = s.romPtr := rfl
@[simp] theorem goto_curLen (s : State) (q : SeqState) : (s.goto q).curLen = s.curLen := rfl
@[simp] theorem goto_byteIdx (s : State) (q : SeqState) : (s.goto q).byteIdx = s.byteIdx := rfl
@[simp] theorem goto_delayCnt (s : State) (q : SeqState) : (s.goto q).delayCnt = s.delayCnt := rfl
@[simp] theorem goto_rstAssert (s : State) (q : SeqState) : (s.goto q).rstAssert = s.rstAssert := rfl
@[simp] theorem goto_lastStatus (s : State) (q : SeqState) : (s.goto q).lastStatus = s.lastStatus := rfl
@[simp] theorem goto_busWord (s : State) (q : SeqState) : (s.goto q).busWord = s.busWord := rfl
@[simp] theorem goto_ctlKnown (s : State) (q : SeqState) : (s.goto q).ctlKnown = s.ctlKnown := rfl
@[simp] theorem goto_inbox (s : State) (q : SeqState) : (s.goto q).inbox = s.inbox := rfl
@[simp] theorem goto_outs (s : State) (q : SeqState) : (s.goto q).outs = s.outs := rfl
@[simp] theorem goto_trace (s : State) (q : SeqState) : (s.goto q).trace = s.trace := rfl

/-! ### `emit` -/

@[simp] theorem emit_cfg (s : State) (e : OutEvent) : (s.emit e).cfg = s.cfg := rfl
@[simp] theorem emit_rom (s : State) (e : OutEvent) : (s.emit e).rom = s.rom := rfl
@[simp] theorem emit_lc (s : State) (e : OutEvent) : (s.emit e).lc = s.lc := rfl
@[simp] theorem emit_seq (s : State) (e : OutEvent) : (s.emit e).seq = s.seq := rfl
@[simp] theorem emit_stepIdx (s : State) (e : OutEvent) : (s.emit e).stepIdx = s.stepIdx := rfl
@[simp] theorem emit_romPtr (s : State) (e : OutEvent) : (s.emit e).romPtr = s.romPtr := rfl
@[simp] theorem emit_curLen (s : State) (e : OutEvent) : (s.emit e).curLen = s.curLen := rfl
@[simp] theorem emit_byteIdx (s : State) (e : OutEvent) : (s.emit e).byteIdx = s.byteIdx := rfl
@[simp] theorem emit_delayCnt (s : State) (e : OutEvent) : (s.emit e).delayCnt = s.delayCnt := rfl
@[simp] theorem emit_rstAssert (s : State) (e : OutEvent) : (s.emit e).rstAssert = s.rstAssert := rfl
@[simp] theorem emit_lastStatus (s : State) (e : OutEvent) : (s.emit e).lastStatus = s.lastStatus := rfl
@[simp] theorem emit_busWord (s : State) (e : OutEvent) : (s.emit e).busWord = s.busWord := rfl
@[simp] theorem emit_ctlKnown (s : State) (e : OutEvent) : (s.emit e).ctlKnown = s.ctlKnown := rfl
@[simp] theorem emit_inbox (s : State) (e : OutEvent) : (s.emit e).inbox = s.inbox := rfl
@[simp] theorem emit_outs (s : State) (e : OutEvent) : (s.emit e).outs = s.outs ++ [e] := rfl
@[simp] theorem emit_trace (s : State) (e : OutEvent) : (s.emit e).trace = s.trace ++ [e] := rfl

/-! ### `clearOuts` -/

@[simp] theorem clearOuts_cfg (s : State) : s.clearOuts.cfg = s.cfg := rfl
@[simp] theorem clearOuts_rom (s : State) : s.clearOuts.rom = s.rom := rfl
@[simp] theorem clearOuts_lc (s : State) : s.clearOuts.lc = s.lc := rfl
@[simp] theorem clearOuts_seq (s : State) : s.clearOuts.seq = s.seq := rfl
@[simp] theorem clearOuts_stepIdx (s : State) : s.clearOuts.stepIdx = s.stepIdx := rfl
@[simp] theorem clearOuts_romPtr (s : State) : s.clearOuts.romPtr = s.romPtr := rfl
@[simp] theorem clearOuts_curLen (s : State) : s.clearOuts.curLen = s.curLen := rfl
@[simp] theorem clearOuts_byteIdx (s : State) : s.clearOuts.byteIdx = s.byteIdx := rfl
@[simp] theorem clearOuts_delayCnt (s : State) : s.clearOuts.delayCnt = s.delayCnt := rfl
@[simp] theorem clearOuts_rstAssert (s : State) : s.clearOuts.rstAssert = s.rstAssert := rfl
@[simp] theorem clearOuts_lastStatus (s : State) : s.clearOuts.lastStatus = s.lastStatus := rfl
@[simp] theorem clearOuts_busWord (s : State) : s.clearOuts.busWord = s.busWord := rfl
@[simp] theorem clearOuts_ctlKnown (s : State) : s.clearOuts.ctlKnown = s.ctlKnown := rfl
@[simp] theorem clearOuts_inbox (s : State) : s.clearOuts.inbox = s.inbox := rfl
@[simp] theorem clearOuts_outs (s : State) : s.clearOuts.outs = [] := rfl
@[simp] theorem clearOuts_trace (s : State) : s.clearOuts.trace = s.trace := rfl

/-! ### `holdRequest` -/

@[simp] theorem holdRequest_cfg (s : State) (op : HostCode) : (s.holdRequest op).cfg = s.cfg := rfl
@[simp] theorem holdRequest_rom (s : State) (op : HostCode) : (s.holdRequest op).rom = s.rom := rfl
@[simp] theorem holdRequest_lc (s : State) (op : HostCode) : (s.holdRequest op).lc = s.lc := rfl
@[simp] theorem holdRequest_seq (s : State) (op : HostCode) : (s.holdRequest op).seq = s.seq := rfl
@[simp] theorem holdRequest_stepIdx (s : State) (op : HostCode) : (s.holdRequest op).stepIdx = s.stepIdx := rfl
@[simp] theorem holdRequest_romPtr (s : State) (op : HostCode) : (s.holdRequest op).romPtr = s.romPtr := rfl
@[simp] theorem holdRequest_curLen (s : State) (op : HostCode) : (s.holdRequest op).curLen = s.curLen := rfl
@[simp] theorem holdRequest_byteIdx (s : State) (op : HostCode) : (s.holdRequest op).byteIdx = s.byteIdx := rfl
@[simp] theorem holdRequest_delayCnt (s : State) (op : HostCode) : (s.holdRequest op).delayCnt = s.delayCnt := rfl
@[simp] theorem holdRequest_rstAssert (s : State) (op : HostCode) : (s.holdRequest op).rstAssert = s.rstAssert := rfl
@[simp] theorem holdRequest_lastStatus (s : State) (op : HostCode) : (s.holdRequest op).lastStatus = s.lastStatus := rfl
@[simp] theorem holdRequest_busWord (s : State) (op : HostCode) : (s.holdRequest op).busWord = s.busWord := rfl
@[simp] theorem holdRequest_ctlKnown (s : State) (op : HostCode) : (s.holdRequest op).ctlKnown = s.ctlKnown := rfl
@[simp] theorem holdRequest_inbox (s : State) (op : HostCode) :
    (s.holdRequest op).inbox = .req op :: s.inbox := rfl
@[simp] theorem holdRequest_outs (s : State) (op : HostCode) : (s.holdRequest op).outs = s.outs := rfl
@[simp] theorem holdRequest_trace (s : State) (op : HostCode) : (s.holdRequest op).trace = s.trace := rfl

/-! ### `forgetController` -/

@[simp] theorem forgetController_cfg (s : State) : s.forgetController.cfg = s.cfg := rfl
@[simp] theorem forgetController_rom (s : State) : s.forgetController.rom = s.rom := rfl
@[simp] theorem forgetController_lc (s : State) : s.forgetController.lc = s.lc := rfl
@[simp] theorem forgetController_seq (s : State) : s.forgetController.seq = s.seq := rfl
@[simp] theorem forgetController_stepIdx (s : State) : s.forgetController.stepIdx = s.stepIdx := rfl
@[simp] theorem forgetController_romPtr (s : State) : s.forgetController.romPtr = s.romPtr := rfl
@[simp] theorem forgetController_curLen (s : State) : s.forgetController.curLen = s.curLen := rfl
@[simp] theorem forgetController_byteIdx (s : State) : s.forgetController.byteIdx = s.byteIdx := rfl
@[simp] theorem forgetController_delayCnt (s : State) : s.forgetController.delayCnt = s.delayCnt := rfl
@[simp] theorem forgetController_rstAssert (s : State) : s.forgetController.rstAssert = s.rstAssert := rfl
@[simp] theorem forgetController_lastStatus (s : State) : s.forgetController.lastStatus = s.lastStatus := rfl
@[simp] theorem forgetController_busWord (s : State) : s.forgetController.busWord = s.busWord := rfl
@[simp] theorem forgetController_ctlKnown (s : State) : s.forgetController.ctlKnown = false := rfl
@[simp] theorem forgetController_inbox (s : State) : s.forgetController.inbox = s.inbox := rfl
@[simp] theorem forgetController_outs (s : State) : s.forgetController.outs = s.outs := rfl
@[simp] theorem forgetController_trace (s : State) : s.forgetController.trace = s.trace := rfl

/-! ### `advanceByte` -/

@[simp] theorem advanceByte_cfg (s : State) : s.advanceByte.cfg = s.cfg := rfl
@[simp] theorem advanceByte_rom (s : State) : s.advanceByte.rom = s.rom := rfl
@[simp] theorem advanceByte_lc (s : State) : s.advanceByte.lc = s.lc := rfl
@[simp] theorem advanceByte_seq (s : State) : s.advanceByte.seq = s.seq := rfl
@[simp] theorem advanceByte_stepIdx (s : State) : s.advanceByte.stepIdx = s.stepIdx := rfl
@[simp] theorem advanceByte_romPtr (s : State) : s.advanceByte.romPtr = s.romPtr + 1#16 := rfl
@[simp] theorem advanceByte_curLen (s : State) : s.advanceByte.curLen = s.curLen := rfl
@[simp] theorem advanceByte_byteIdx (s : State) : s.advanceByte.byteIdx = s.byteIdx + 1#8 := rfl
@[simp] theorem advanceByte_delayCnt (s : State) : s.advanceByte.delayCnt = s.delayCnt := rfl
@[simp] theorem advanceByte_rstAssert (s : State) : s.advanceByte.rstAssert = s.rstAssert := rfl
@[simp] theorem advanceByte_lastStatus (s : State) : s.advanceByte.lastStatus = s.lastStatus := rfl
@[simp] theorem advanceByte_busWord (s : State) : s.advanceByte.busWord = s.busWord := rfl
@[simp] theorem advanceByte_ctlKnown (s : State) : s.advanceByte.ctlKnown = s.ctlKnown := rfl
@[simp] theorem advanceByte_inbox (s : State) : s.advanceByte.inbox = s.inbox := rfl
@[simp] theorem advanceByte_outs (s : State) : s.advanceByte.outs = s.outs := rfl
@[simp] theorem advanceByte_trace (s : State) : s.advanceByte.trace = s.trace := rfl

/-! ### `issueWord` -/

@[simp] theorem issueWord_cfg (s : State) (k : BusKind) (b : Byte) (x : SeqState) :
    (issueWord k b x s).cfg = s.cfg := rfl
@[simp] theorem issueWord_rom (s : State) (k : BusKind) (b : Byte) (x : SeqState) :
    (issueWord k b x s).rom = s.rom := rfl
@[simp] theorem issueWord_lc (s : State) (k : BusKind) (b : Byte) (x : SeqState) :
    (issueWord k b x s).lc = s.lc := rfl
@[simp] theorem issueWord_seq (s : State) (k : BusKind) (b : Byte) (x : SeqState) :
    (issueWord k b x s).seq = x.code := rfl
@[simp] theorem issueWord_stepIdx (s : State) (k : BusKind) (b : Byte) (x : SeqState) :
    (issueWord k b x s).stepIdx = s.stepIdx := rfl
@[simp] theorem issueWord_romPtr (s : State) (k : BusKind) (b : Byte) (x : SeqState) :
    (issueWord k b x s).romPtr = s.romPtr := rfl
@[simp] theorem issueWord_curLen (s : State) (k : BusKind) (b : Byte) (x : SeqState) :
    (issueWord k b x s).curLen = s.curLen := rfl
@[simp] theorem issueWord_byteIdx (s : State) (k : BusKind) (b : Byte) (x : SeqState) :
    (issueWord k b x s).byteIdx = s.byteIdx := rfl
@[simp] theorem issueWord_delayCnt (s : State) (k : BusKind) (b : Byte) (x : SeqState) :
    (issueWord k b x s).delayCnt = s.delayCnt := rfl
@[simp] theorem issueWord_rstAssert (s : State) (k : BusKind) (b : Byte) (x : SeqState) :
    (issueWord k b x s).rstAssert = s.rstAssert := rfl
@[simp] theorem issueWord_lastStatus (s : State) (k : BusKind) (b : Byte) (x : SeqState) :
    (issueWord k b x s).lastStatus = s.lastStatus := rfl
@[simp] theorem issueWord_busWord (s : State) (k : BusKind) (b : Byte) (x : SeqState) :
    (issueWord k b x s).busWord = busEncode k b := rfl
@[simp] theorem issueWord_ctlKnown (s : State) (k : BusKind) (b : Byte) (x : SeqState) :
    (issueWord k b x s).ctlKnown = s.ctlKnown := rfl
@[simp] theorem issueWord_inbox (s : State) (k : BusKind) (b : Byte) (x : SeqState) :
    (issueWord k b x s).inbox = s.inbox := rfl
@[simp] theorem issueWord_outs (s : State) (k : BusKind) (b : Byte) (x : SeqState) :
    (issueWord k b x s).outs = s.outs ++ [.busXfer (busEncode k b)] := rfl
@[simp] theorem issueWord_trace (s : State) (k : BusKind) (b : Byte) (x : SeqState) :
    (issueWord k b x s).trace = s.trace ++ [.busXfer (busEncode k b)] := rfl

/-! ### `finish` -/

@[simp] theorem finish_cfg (s : State) (st : Status) (e : Nat) (n : BitVec 2) :
    (finish st e n s).cfg = s.cfg := rfl
@[simp] theorem finish_rom (s : State) (st : Status) (e : Nat) (n : BitVec 2) :
    (finish st e n s).rom = s.rom := rfl
@[simp] theorem finish_lc (s : State) (st : Status) (e : Nat) (n : BitVec 2) :
    (finish st e n s).lc = s.lc := rfl
@[simp] theorem finish_seq (s : State) (st : Status) (e : Nat) (n : BitVec 2) :
    (finish st e n s).seq = SeqState.idle.code := rfl
@[simp] theorem finish_stepIdx (s : State) (st : Status) (e : Nat) (n : BitVec 2) :
    (finish st e n s).stepIdx = s.stepIdx := rfl
@[simp] theorem finish_romPtr (s : State) (st : Status) (e : Nat) (n : BitVec 2) :
    (finish st e n s).romPtr = s.romPtr := rfl
@[simp] theorem finish_curLen (s : State) (st : Status) (e : Nat) (n : BitVec 2) :
    (finish st e n s).curLen = s.curLen := rfl
@[simp] theorem finish_byteIdx (s : State) (st : Status) (e : Nat) (n : BitVec 2) :
    (finish st e n s).byteIdx = s.byteIdx := rfl
@[simp] theorem finish_delayCnt (s : State) (st : Status) (e : Nat) (n : BitVec 2) :
    (finish st e n s).delayCnt = s.delayCnt := rfl
@[simp] theorem finish_rstAssert (s : State) (st : Status) (e : Nat) (n : BitVec 2) :
    (finish st e n s).rstAssert = s.rstAssert := rfl
@[simp] theorem finish_lastStatus (s : State) (st : Status) (e : Nat) (n : BitVec 2) :
    (finish st e n s).lastStatus = st.code := rfl
@[simp] theorem finish_busWord (s : State) (st : Status) (e : Nat) (n : BitVec 2) :
    (finish st e n s).busWord = s.busWord := rfl
@[simp] theorem finish_ctlKnown (s : State) (st : Status) (e : Nat) (n : BitVec 2) :
    (finish st e n s).ctlKnown = s.ctlKnown := rfl
@[simp] theorem finish_inbox (s : State) (st : Status) (e : Nat) (n : BitVec 2) :
    (finish st e n s).inbox = s.inbox := rfl
@[simp] theorem finish_outs (s : State) (st : Status) (e : Nat) (n : BitVec 2) :
    (finish st e n s).outs = s.outs ++ [.respond st.code e n] := rfl
@[simp] theorem finish_trace (s : State) (st : Status) (e : Nat) (n : BitVec 2) :
    (finish st e n s).trace = s.trace ++ [.respond st.code e n] := rfl

/-! ### `startDelay` -/

@[simp] theorem startDelay_cfg (s : State) (n : Nat) (x : SeqState) : (startDelay n x s).cfg = s.cfg := rfl
@[simp] theorem startDelay_rom (s : State) (n : Nat) (x : SeqState) : (startDelay n x s).rom = s.rom := rfl
@[simp] theorem startDelay_lc (s : State) (n : Nat) (x : SeqState) : (startDelay n x s).lc = s.lc := rfl
@[simp] theorem startDelay_seq (s : State) (n : Nat) (x : SeqState) : (startDelay n x s).seq = x.code := rfl
@[simp] theorem startDelay_stepIdx (s : State) (n : Nat) (x : SeqState) :
    (startDelay n x s).stepIdx = s.stepIdx := rfl
@[simp] theorem startDelay_romPtr (s : State) (n : Nat) (x : SeqState) :
    (startDelay n x s).romPtr = s.romPtr := rfl
@[simp] theorem startDelay_curLen (s : State) (n : Nat) (x : SeqState) :
    (startDelay n x s).curLen = s.curLen := rfl
@[simp] theorem startDelay_byteIdx (s : State) (n : Nat) (x : SeqState) :
    (startDelay n x s).byteIdx = s.byteIdx := rfl
@[simp] theorem startDelay_delayCnt (s : State) (n : Nat) (x : SeqState) :
    (startDelay n x s).delayCnt = BitVec.ofNat 8 (n + 1) := rfl
@[simp] theorem startDelay_rstAssert (s : State) (n : Nat) (x : SeqState) :
    (startDelay n x s).rstAssert = s.rstAssert := rfl
@[simp] theorem startDelay_lastStatus (s : State) (n : Nat) (x : SeqState) :
    (startDelay n x s).lastStatus = s.lastStatus := rfl
@[simp] theorem startDelay_busWord (s : State) (n : Nat) (x : SeqState) :
    (startDelay n x s).busWord = s.busWord := rfl
@[simp] theorem startDelay_ctlKnown (s : State) (n : Nat) (x : SeqState) :
    (startDelay n x s).ctlKnown = s.ctlKnown := rfl
@[simp] theorem startDelay_inbox (s : State) (n : Nat) (x : SeqState) :
    (startDelay n x s).inbox = s.inbox := rfl
@[simp] theorem startDelay_outs (s : State) (n : Nat) (x : SeqState) : (startDelay n x s).outs = s.outs := rfl
@[simp] theorem startDelay_trace (s : State) (n : Nat) (x : SeqState) :
    (startDelay n x s).trace = s.trace := rfl

/-! ### `beginStepWith` -/

@[simp] theorem beginStepWith_cfg (s : State) (c len : Byte) : (beginStepWith c len s).cfg = s.cfg := rfl
@[simp] theorem beginStepWith_rom (s : State) (c len : Byte) : (beginStepWith c len s).rom = s.rom := rfl
@[simp] theorem beginStepWith_lc (s : State) (c len : Byte) : (beginStepWith c len s).lc = s.lc := rfl
@[simp] theorem beginStepWith_seq (s : State) (c len : Byte) :
    (beginStepWith c len s).seq = SeqState.xCmd.code := rfl
@[simp] theorem beginStepWith_stepIdx (s : State) (c len : Byte) : (beginStepWith c len s).stepIdx = s.stepIdx := rfl
@[simp] theorem beginStepWith_romPtr (s : State) (c len : Byte) :
    (beginStepWith c len s).romPtr = s.romPtr + 2#16 := rfl
@[simp] theorem beginStepWith_curLen (s : State) (c len : Byte) : (beginStepWith c len s).curLen = len := rfl
@[simp] theorem beginStepWith_byteIdx (s : State) (c len : Byte) : (beginStepWith c len s).byteIdx = 0#8 := rfl
@[simp] theorem beginStepWith_delayCnt (s : State) (c len : Byte) : (beginStepWith c len s).delayCnt = s.delayCnt := rfl
@[simp] theorem beginStepWith_rstAssert (s : State) (c len : Byte) : (beginStepWith c len s).rstAssert = s.rstAssert := rfl
@[simp] theorem beginStepWith_lastStatus (s : State) (c len : Byte) :
    (beginStepWith c len s).lastStatus = s.lastStatus := rfl
@[simp] theorem beginStepWith_busWord (s : State) (c len : Byte) :
    (beginStepWith c len s).busWord = busEncode .command c := rfl
@[simp] theorem beginStepWith_ctlKnown (s : State) (c len : Byte) : (beginStepWith c len s).ctlKnown = s.ctlKnown := rfl
@[simp] theorem beginStepWith_inbox (s : State) (c len : Byte) : (beginStepWith c len s).inbox = s.inbox := rfl
@[simp] theorem beginStepWith_outs (s : State) (c len : Byte) :
    (beginStepWith c len s).outs = s.outs ++ [.busXfer (busEncode .command c)] := rfl
@[simp] theorem beginStepWith_trace (s : State) (c len : Byte) :
    (beginStepWith c len s).trace = s.trace ++ [.busXfer (busEncode .command c)] := rfl

/-! ### `assertReset` -/

@[simp] theorem assertReset_cfg (s : State) : (assertReset s).cfg = s.cfg := rfl
@[simp] theorem assertReset_rom (s : State) : (assertReset s).rom = s.rom := rfl
@[simp] theorem assertReset_lc (s : State) : (assertReset s).lc = s.lc := rfl
@[simp] theorem assertReset_seq (s : State) : (assertReset s).seq = SeqState.pDlyRst.code := rfl
@[simp] theorem assertReset_stepIdx (s : State) : (assertReset s).stepIdx = s.stepIdx := rfl
@[simp] theorem assertReset_romPtr (s : State) : (assertReset s).romPtr = s.romPtr := rfl
@[simp] theorem assertReset_curLen (s : State) : (assertReset s).curLen = s.curLen := rfl
@[simp] theorem assertReset_byteIdx (s : State) : (assertReset s).byteIdx = s.byteIdx := rfl
@[simp] theorem assertReset_delayCnt (s : State) : (assertReset s).delayCnt = BitVec.ofNat 8 (s.cfg.tRstMs + 1) := rfl
@[simp] theorem assertReset_rstAssert (s : State) : (assertReset s).rstAssert = true := rfl
@[simp] theorem assertReset_lastStatus (s : State) : (assertReset s).lastStatus = s.lastStatus := rfl
@[simp] theorem assertReset_busWord (s : State) : (assertReset s).busWord = s.busWord := rfl
@[simp] theorem assertReset_ctlKnown (s : State) : (assertReset s).ctlKnown = s.ctlKnown := rfl
@[simp] theorem assertReset_inbox (s : State) : (assertReset s).inbox = s.inbox := rfl
@[simp] theorem assertReset_outs (s : State) : (assertReset s).outs = s.outs ++ [.rstSet true] := rfl
@[simp] theorem assertReset_trace (s : State) : (assertReset s).trace = s.trace ++ [.rstSet true] := rfl

/-! ### `deassertReset` -/

@[simp] theorem deassertReset_cfg (s : State) : (deassertReset s).cfg = s.cfg := rfl
@[simp] theorem deassertReset_rom (s : State) : (deassertReset s).rom = s.rom := rfl
@[simp] theorem deassertReset_lc (s : State) : (deassertReset s).lc = s.lc := rfl
@[simp] theorem deassertReset_seq (s : State) : (deassertReset s).seq = SeqState.pDlyPost.code := rfl
@[simp] theorem deassertReset_stepIdx (s : State) : (deassertReset s).stepIdx = s.stepIdx := rfl
@[simp] theorem deassertReset_romPtr (s : State) : (deassertReset s).romPtr = s.romPtr := rfl
@[simp] theorem deassertReset_curLen (s : State) : (deassertReset s).curLen = s.curLen := rfl
@[simp] theorem deassertReset_byteIdx (s : State) : (deassertReset s).byteIdx = s.byteIdx := rfl
@[simp] theorem deassertReset_delayCnt (s : State) : (deassertReset s).delayCnt = 121#8 := rfl
@[simp] theorem deassertReset_rstAssert (s : State) : (deassertReset s).rstAssert = false := rfl
@[simp] theorem deassertReset_lastStatus (s : State) : (deassertReset s).lastStatus = s.lastStatus := rfl
@[simp] theorem deassertReset_busWord (s : State) : (deassertReset s).busWord = s.busWord := rfl
@[simp] theorem deassertReset_ctlKnown (s : State) : (deassertReset s).ctlKnown = s.ctlKnown := rfl
@[simp] theorem deassertReset_inbox (s : State) : (deassertReset s).inbox = s.inbox := rfl
@[simp] theorem deassertReset_outs (s : State) : (deassertReset s).outs = s.outs ++ [.rstSet false] := rfl
@[simp] theorem deassertReset_trace (s : State) : (deassertReset s).trace = s.trace ++ [.rstSet false] := rfl

/-! ### `scriptDone` -/

@[simp] theorem scriptDone_cfg (s : State) : (scriptDone s).cfg = s.cfg := rfl
@[simp] theorem scriptDone_rom (s : State) : (scriptDone s).rom = s.rom := rfl
@[simp] theorem scriptDone_lc (s : State) : (scriptDone s).lc = s.lc := rfl
@[simp] theorem scriptDone_seq (s : State) : (scriptDone s).seq = SeqState.xDlyFin.code := rfl
@[simp] theorem scriptDone_stepIdx (s : State) : (scriptDone s).stepIdx = s.stepIdx := rfl
@[simp] theorem scriptDone_romPtr (s : State) : (scriptDone s).romPtr = s.romPtr := rfl
@[simp] theorem scriptDone_curLen (s : State) : (scriptDone s).curLen = s.curLen := rfl
@[simp] theorem scriptDone_byteIdx (s : State) : (scriptDone s).byteIdx = s.byteIdx := rfl
@[simp] theorem scriptDone_delayCnt (s : State) : (scriptDone s).delayCnt = 121#8 := rfl
@[simp] theorem scriptDone_rstAssert (s : State) : (scriptDone s).rstAssert = s.rstAssert := rfl
@[simp] theorem scriptDone_lastStatus (s : State) : (scriptDone s).lastStatus = s.lastStatus := rfl
@[simp] theorem scriptDone_busWord (s : State) : (scriptDone s).busWord = s.busWord := rfl
@[simp] theorem scriptDone_ctlKnown (s : State) : (scriptDone s).ctlKnown = s.ctlKnown := rfl
@[simp] theorem scriptDone_inbox (s : State) : (scriptDone s).inbox = s.inbox := rfl
@[simp] theorem scriptDone_outs (s : State) : (scriptDone s).outs = s.outs := rfl
@[simp] theorem scriptDone_trace (s : State) : (scriptDone s).trace = s.trace := rfl

/-! ### `declareReady` -/

@[simp] theorem declareReady_cfg (s : State) : (declareReady s).cfg = s.cfg := rfl
@[simp] theorem declareReady_rom (s : State) : (declareReady s).rom = s.rom := rfl
@[simp] theorem declareReady_lc (s : State) : (declareReady s).lc = .prepared := rfl
@[simp] theorem declareReady_seq (s : State) : (declareReady s).seq = SeqState.idle.code := rfl
@[simp] theorem declareReady_stepIdx (s : State) : (declareReady s).stepIdx = s.stepIdx := rfl
@[simp] theorem declareReady_romPtr (s : State) : (declareReady s).romPtr = s.romPtr := rfl
@[simp] theorem declareReady_curLen (s : State) : (declareReady s).curLen = s.curLen := rfl
@[simp] theorem declareReady_byteIdx (s : State) : (declareReady s).byteIdx = s.byteIdx := rfl
@[simp] theorem declareReady_delayCnt (s : State) : (declareReady s).delayCnt = s.delayCnt := rfl
@[simp] theorem declareReady_rstAssert (s : State) : (declareReady s).rstAssert = s.rstAssert := rfl
@[simp] theorem declareReady_lastStatus (s : State) : (declareReady s).lastStatus = 0#3 := rfl
@[simp] theorem declareReady_busWord (s : State) : (declareReady s).busWord = s.busWord := rfl
@[simp] theorem declareReady_ctlKnown (s : State) : (declareReady s).ctlKnown = true := rfl
@[simp] theorem declareReady_inbox (s : State) : (declareReady s).inbox = s.inbox := rfl
@[simp] theorem declareReady_outs (s : State) : (declareReady s).outs = s.outs ++ [.respond 0#3 0 0#2] := rfl
@[simp] theorem declareReady_trace (s : State) : (declareReady s).trace = s.trace ++ [.respond 0#3 0 0#2] := rfl

end Sys2Proof.Machine
end

