-- ==== Sys2Proof/Laws/Ops.lean ====
section
/-! SUPPORT. One lemma per shared operation: what it answers, and everything it can do when it answers a next state. -/

namespace Sys2Proof.Machine

/-! ### The guard on `seq` -/

theorem withSeq_of_used (s : State) (q : SeqState) (k : SeqState → Result) (h : seqOf s.seq = some q) :
    withSeq s k = k q := by
  simp [withSeq, h]

theorem withSeq_of_unused (s : State) (k : SeqState → Result) (h : seqOf s.seq = none) :
    withSeq s k = .fault .badSeq := by
  simp [withSeq, h]

theorem withSeq_next (s t : State) (k : SeqState → Result) (h : withSeq s k = .next t) :
    ∃ q, seqOf s.seq = some q ∧ k q = .next t := by
  unfold withSeq at h
  split at h
  · exact absurd h (by simp)
  · next q hq => exact ⟨q, hq, h⟩

/-! ### Requests -/

theorem request_of_idle (op : HostCode) (f : State → State) (s : State) (h : seqOf s.seq = some .idle) :
    request op f s = .next (f s) := by
  simp [request, withSeq_of_used s _ _ h]

theorem request_of_busy (op : HostCode) (f : State → State) (s : State) (q : SeqState) (h : seqOf s.seq = some q)
    (hq : q ≠ .idle) : request op f s = .next (s.holdRequest op) := by
  simp [request, withSeq_of_used s _ _ h, hq]

/-- A request is accepted in `IDLE`, or held. -/
theorem request_next (op : HostCode) (f : State → State) (s t : State) (h : request op f s = .next t) :
    (seqOf s.seq = some .idle ∧ t = f s)
      ∨ (∃ q, seqOf s.seq = some q ∧ q ≠ .idle ∧ t = s.holdRequest op) := by
  obtain ⟨q, hq, hk⟩ := withSeq_next _ _ _ h
  by_cases hi : q = .idle
  · subst hi
    left
    simp at hk
    exact ⟨hq, hk.symm⟩
  · right
    simp [hi] at hk
    exact ⟨q, hq, hi, hk.symm⟩

theorem performIfLegal_of_legal (op : HostOp) (f : State → State) (s : State) (h : legal s.lc op = true) :
    performIfLegal op f s = f s := by
  simp [performIfLegal, h]

theorem performIfLegal_of_illegal (op : HostOp) (f : State → State) (s : State) (h : legal s.lc op = false) :
    performIfLegal op f s = finish .seqErr 0 0#2 s := by
  simp [performIfLegal, h]

/-! ### The delay counter -/

/-- A delay goes on, or it ends. -/
theorem countDown_next (s t : State) (f : State → Result) (h : countDown s f = .next t) :
    (s.delayCnt - 1#8 = 0#8 ∧ f { s with delayCnt := 0#8 } = .next t)
      ∨ (s.delayCnt - 1#8 ≠ 0#8 ∧ t = { s with delayCnt := s.delayCnt - 1#8 }) := by
  unfold countDown at h
  split at h
  · next h0 => exact .inl ⟨h0, by rwa [h0] at h⟩
  · next h0 => exact .inr ⟨h0, by simpa using h.symm⟩

theorem countDown_last (s : State) (f : State → Result) (h : s.delayCnt = 1#8) :
    countDown s f = f { s with delayCnt := 0#8 } := by
  simp [countDown, h]

theorem countDown_early (s : State) (f : State → Result) (h : 2 ≤ s.delayCnt.toNat) :
    countDown s f = .next { s with delayCnt := s.delayCnt - 1#8 } := by
  unfold countDown
  rw [if_neg]
  intro h0
  have := congrArg BitVec.toNat h0
  simp at this
  omega

/-! ### The meanings of the bus words and of the script entries -/

theorem execBwCmd_of_used (c : Byte) (s : State) (q : SeqState) (h : seqOf s.seq = some q) :
    execBwCmd c s = .next (issueWord .command c (commandWait q) s) := withSeq_of_used s q _ h

theorem execBwData_of_used (d : Byte) (s : State) (q : SeqState) (h : seqOf s.seq = some q) :
    execBwData d s = .next (issueWord .data d .xData s) := withSeq_of_used s q _ h

theorem execStep_of_used (cmd : Byte) (data : List Byte) (s : State) (q : SeqState) (h : seqOf s.seq = some q) :
    execStep cmd data s = .next (beginStepWith cmd (BitVec.ofNat 8 data.length) s) := withSeq_of_used s q _ h

theorem execCmd_of_used (cmd : Byte) (s : State) (q : SeqState) (h : seqOf s.seq = some q) :
    execCmd cmd s = .next (beginStepWith cmd 0x00#8 s) := withSeq_of_used s q _ h

theorem execBank_of_used (idx : Byte) (s : State) (q : SeqState) (h : seqOf s.seq = some q) :
    execBank idx s = .next (beginStepWith s.cfg.bankselCmd 0x05#8 s) := withSeq_of_used s q _ h

end Sys2Proof.Machine
end

