-- ==== Sys2Proof/Laws/Executor.lean ====
section
/-! SUPPORT. What the executor's operations and the event handlers do: one lemma that answers, one that inverts. -/

namespace Sys2Proof.Machine

/-! ### Naming an entry -/

/-- The name of an entry is a script instruction, and running it is `begin_step` for its cmd and its data length. -/
theorem exec_nameEntry (cmd : Byte) (data : List Byte) (s : State) (q : SeqState) (h : seqOf s.seq = some q) :
    exec (nameEntry s.cfg cmd data) s = .next (beginStepWith cmd (BitVec.ofNat 8 data.length) s) := by
  unfold nameEntry
  split
  · exact execCmd_of_used cmd s q h
  · next m0 m1 m2 m3 idx =>
    split
    · next hc => rw [hc.1]; exact execBank_of_used idx s q h
    · exact execStep_of_used cmd _ s q h
  · exact execStep_of_used cmd _ s q h

/-! ### `begin_step` -/

/-- `begin_step` reads the header and nothing else matters (R121). -/
theorem beginStep_of_header (s : State) (c len : Byte) (q : SeqState) (hq : seqOf s.seq = some q)
    (hc : s.scriptRead s.romPtr.toNat = some c) (hl : s.scriptRead (s.romPtr.toNat + 1) = some len) :
    beginStep s = .next (beginStepWith c len s) := by
  unfold beginStep State.fetchEntry
  simp only [hc, hl]
  cases hd : Memory.readN s.rom (s.romPtr.toNat + 2) len.toNat with
  | none => exact withSeq_of_used s q _ hq
  | some data =>
    have hlen := Memory.readN_length _ _ _ _ hd
    simp only [decodeEntry, hlen, Nat.lt_irrefl, if_false]
    rw [List.take_of_length_le (by omega), exec_nameEntry c data s q hq, hlen]
    simp

/-- Where `begin_step` answers a next state, a header was read. -/
theorem beginStep_next (s t : State) (h : beginStep s = .next t) :
    ∃ c len, s.scriptRead s.romPtr.toNat = some c ∧ s.scriptRead (s.romPtr.toNat + 1) = some len
      ∧ (∃ q, seqOf s.seq = some q) ∧ t = beginStepWith c len s := by
  cases hc : s.scriptRead s.romPtr.toNat with
  | none => simp [beginStep, State.fetchEntry, hc] at h
  | some c =>
    cases hl : s.scriptRead (s.romPtr.toNat + 1) with
    | none => simp [beginStep, State.fetchEntry, hc, hl] at h
    | some len =>
      refine ⟨c, len, rfl, rfl, ?_⟩
      cases hq : seqOf s.seq with
      | some q =>
        rw [beginStep_of_header s c len q hq hc hl] at h
        exact ⟨⟨q, rfl⟩, by simpa using h.symm⟩
      | none =>
        exfalso
        unfold beginStep State.fetchEntry at h
        simp only [hc, hl] at h
        cases hd : Memory.readN s.rom (s.romPtr.toNat + 2) len.toNat with
        | none => simp [hd, withSeq_of_unused s _ hq] at h
        | some data =>
          simp only [hd, decodeEntry, Memory.readN_length _ _ _ _ hd, Nat.lt_irrefl, if_false] at h
          unfold nameEntry at h
          split at h
          · simp [exec, execCmd, withSeq_of_unused s _ hq] at h
          · split at h <;> simp [exec, execBank, execStep, withSeq_of_unused s _ hq] at h
          · simp [exec, execStep, withSeq_of_unused s _ hq] at h

/-! ### `next_step` and the Data words -/

theorem nextStep_of_last (s : State) (h : (s.stepIdx + 1#8).toNat = s.cfg.nSteps) :
    nextStep s = .next (scriptDone { s with stepIdx := s.stepIdx + 1#8 }) := if_pos h

theorem nextStep_of_more (s : State) (h : (s.stepIdx + 1#8).toNat ≠ s.cfg.nSteps) :
    nextStep s = beginStep { s with stepIdx := s.stepIdx + 1#8 } := if_neg h

/-- The script is done, or the next step begins (R126). -/
theorem nextStep_next (s t : State) (h : nextStep s = .next t) :
    ((s.stepIdx + 1#8).toNat = s.cfg.nSteps ∧ t = scriptDone { s with stepIdx := s.stepIdx + 1#8 })
      ∨ ((s.stepIdx + 1#8).toNat ≠ s.cfg.nSteps
          ∧ ∃ c len, s.scriptRead s.romPtr.toNat = some c ∧ s.scriptRead (s.romPtr.toNat + 1) = some len
            ∧ t = beginStepWith c len { s with stepIdx := s.stepIdx + 1#8 }) := by
  by_cases hn : (s.stepIdx + 1#8).toNat = s.cfg.nSteps
  · rw [nextStep_of_last s hn] at h
    exact .inl ⟨hn, by simpa using h.symm⟩
  · rw [nextStep_of_more s hn] at h
    obtain ⟨c, len, hc, hl, _, ht⟩ := beginStep_next _ _ h
    exact .inr ⟨hn, c, len, hc, hl, ht⟩

theorem sendDataByte_of_read (s : State) (b : Byte) (q : SeqState) (hq : seqOf s.seq = some q)
    (hb : s.scriptRead s.romPtr.toNat = some b) : sendDataByte s = .next (issueWord .data b .xData s) := by
  simp only [sendDataByte, hb]
  exact execBwData_of_used b s q hq

theorem sendDataByte_next (s t : State) (h : sendDataByte s = .next t) :
    ∃ b, s.scriptRead s.romPtr.toNat = some b ∧ t = issueWord .data b .xData s := by
  unfold sendDataByte at h
  split at h
  · next b hb =>
    obtain ⟨q, _, hk⟩ := withSeq_next _ _ _ (show execBwData b s = .next t from h)
    exact ⟨b, hb, by simpa using hk.symm⟩
  · simp at h

/-! ### The handlers -/

/-- Everything an answer of the supply can do (R183, R192, R43). -/
theorem onPwrDone_next (r : Reply) (s t : State) (h : onPwrDone r s = .next t) :
    (seqOf s.seq = some .pPwr ∧ r = .ok ∧ t = startDelay tPwrMs .pDlyPwr s)
      ∨ (seqOf s.seq = some .pPwr ∧ ∃ e, r = .err e ∧ t = finish .pwrErr e 0#2 s)
      ∨ (seqOf s.seq = some .uPwr ∧ r = .ok ∧ t = finish .ok 0 0#2 { s.forgetController with lc := .unprepared })
      ∨ (seqOf s.seq = some .uPwr ∧ ∃ e, r = .err e ∧ t = finish .pwrErr e 0#2 s.forgetController)
      ∨ ((∃ q, seqOf s.seq = some q ∧ q ≠ .pPwr ∧ q ≠ .uPwr) ∧ t = s) := by
  obtain ⟨q, hq, hk⟩ := withSeq_next _ _ _ h
  cases q <;> cases r <;> simp at hk <;> simp [hq, ← hk]

/-- Everything a successful transfer can do (R122, R124, R152, R43). -/
theorem onBusOk_next (s t : State) (h : onBusOk s = .next t) :
    (seqOf s.seq = some .xSlp ∧ t = startDelay tSlpoutMs .xDlySlp s)
      ∨ (seqOf s.seq = some .xCmd ∧ s.curLen = 0#8 ∧ nextStep s = .next t)
      ∨ (seqOf s.seq = some .xCmd ∧ s.curLen ≠ 0#8 ∧ sendDataByte s = .next t)
      ∨ (seqOf s.seq = some .xData ∧ s.byteIdx + 1#8 = s.curLen ∧ nextStep s.advanceByte = .next t)
      ∨ (seqOf s.seq = some .xData ∧ s.byteIdx + 1#8 ≠ s.curLen ∧ sendDataByte s.advanceByte = .next t)
      ∨ ((∃ q, seqOf s.seq = some q ∧ q ≠ .xSlp ∧ q ≠ .xCmd ∧ q ≠ .xData) ∧ t = s) := by
  obtain ⟨q, hq, hk⟩ := withSeq_next _ _ _ h
  cases q
  case xCmd =>
    simp only [commandSent] at hk
    split at hk <;> simp_all
  case xData =>
    by_cases hb : s.byteIdx + 1#8 = s.curLen
    · have : nextStep s.advanceByte = .next t := (if_pos hb).symm.trans hk
      simp [hq, hb, this]
    · have : sendDataByte s.advanceByte = .next t := (if_neg hb).symm.trans hk
      simp [hq, hb, this]
  all_goals
    simp at hk
    simp [hq, ← hk]

/-- Everything a failed transfer can do (R123, R125, R152, R43). -/
theorem onBusErr_next (e : Nat) (s t : State) (h : onBusErr e s = .next t) :
    ((seqOf s.seq = some .xSlp ∨ seqOf s.seq = some .xCmd ∨ seqOf s.seq = some .xData)
        ∧ t = finish .busErr e 0#2 s.forgetController)
      ∨ ((∃ q, seqOf s.seq = some q ∧ q ≠ .xSlp ∧ q ≠ .xCmd ∧ q ≠ .xData) ∧ t = s.forgetController) := by
  obtain ⟨q, hq, hk⟩ := withSeq_next _ _ _ h
  cases q <;> simp at hk <;> simp [hq, ← hk]

/-- The delay states (R24). -/
def SeqState.isDelay : SeqState → Bool
  | .pDlyPwr | .pDlyRst | .pDlyPost | .xDlySlp | .xDlyFin => true
  | .idle | .pPwr | .xSlp | .xCmd | .xData | .uPwr => false

/-- Everything a tick can do (R231, R184 to R186, R153, R156, R43). -/
theorem onTick_next (s t : State) (h : onTick s = .next t) :
    (∃ q, seqOf s.seq = some q ∧ q.isDelay = true ∧ s.delayCnt - 1#8 ≠ 0#8
        ∧ t = { s with delayCnt := s.delayCnt - 1#8 })
      ∨ (seqOf s.seq = some .pDlyPwr ∧ s.delayCnt - 1#8 = 0#8 ∧ t = assertReset { s with delayCnt := 0#8 })
      ∨ (seqOf s.seq = some .pDlyRst ∧ s.delayCnt - 1#8 = 0#8 ∧ t = deassertReset { s with delayCnt := 0#8 })
      ∨ (seqOf s.seq = some .pDlyPost ∧ s.delayCnt - 1#8 = 0#8
          ∧ t = issueWord .command s.cfg.slpoutCmd .xSlp { s with delayCnt := 0#8 })
      ∨ (seqOf s.seq = some .xDlySlp ∧ s.delayCnt - 1#8 = 0#8
          ∧ ∃ c len, s.scriptRead 0 = some c ∧ s.scriptRead 1 = some len
            ∧ t = beginStepWith c len { s with delayCnt := 0#8, stepIdx := 0#8, romPtr := 0#16 })
      ∨ (seqOf s.seq = some .xDlyFin ∧ s.delayCnt - 1#8 = 0#8 ∧ t = declareReady { s with delayCnt := 0#8 })
      ∨ ((∃ q, seqOf s.seq = some q ∧ q.isDelay = false) ∧ t = s) := by
  obtain ⟨q, hq, hk⟩ := withSeq_next _ _ _ h
  cases hd : q.isDelay
  · cases q <;> simp [SeqState.isDelay] at hd <;> simp at hk <;> simp [hq, ← hk, SeqState.isDelay]
  · have hcase : ∀ f : State → Result, countDown s f = .next t →
        (s.delayCnt - 1#8 = 0#8 ∧ f { s with delayCnt := 0#8 } = .next t)
          ∨ (∃ q, seqOf s.seq = some q ∧ q.isDelay = true ∧ s.delayCnt - 1#8 ≠ 0#8
            ∧ t = { s with delayCnt := s.delayCnt - 1#8 }) := by
      intro f hf
      rcases countDown_next s t f hf with h1 | h2
      · exact .inl h1
      · exact .inr ⟨q, hq, hd, h2.1, h2.2⟩
    cases q <;> simp [SeqState.isDelay] at hd
    case pDlyPwr =>
      rcases hcase _ hk with ⟨h0, ht⟩ | hgo
      · exact .inr (.inl ⟨hq, h0, by simpa using ht.symm⟩)
      · exact .inl hgo
    case pDlyRst =>
      rcases hcase _ hk with ⟨h0, ht⟩ | hgo
      · exact .inr (.inr (.inl ⟨hq, h0, by simpa using ht.symm⟩))
      · exact .inl hgo
    case pDlyPost =>
      rcases hcase _ hk with ⟨h0, ht⟩ | hgo
      · have hx := execBwCmd_of_used s.cfg.slpoutCmd { s with delayCnt := 0#8 } .pDlyPost hq
        have ht' : execBwCmd s.cfg.slpoutCmd { s with delayCnt := 0#8 } = .next t := ht
        rw [hx] at ht'
        exact .inr (.inr (.inr (.inl ⟨hq, h0, by simpa [commandWait] using ht'.symm⟩)))
      · exact .inl hgo
    case xDlySlp =>
      rcases hcase _ hk with ⟨h0, ht⟩ | hgo
      · obtain ⟨c, len, hc, hl, _, ht⟩ := beginStep_next _ _ ht
        exact .inr (.inr (.inr (.inr (.inl ⟨hq, h0, c, len, hc, hl, ht⟩))))
      · exact .inl hgo
    case xDlyFin =>
      rcases hcase _ hk with ⟨h0, ht⟩ | hgo
      · exact .inr (.inr (.inr (.inr (.inr (.inl ⟨hq, h0, by simpa using ht.symm⟩)))))
      · exact .inl hgo

/-- A host code in a state outside 0x0 to 0xA is a fault (R22, R40). -/
theorem exec_hostCode_unused (op : HostCode) (s : State) (h : seqOf s.seq = none) :
    exec (decodeHostCode op) s = .fault .badSeq := by
  rcases decodeHostCode_cases op with h1 | h1 | h1 | h1 | h1 | h1 | h1 | h1 <;> rw [h1] <;>
    exact withSeq_of_unused s _ h

/-- Everything a host code can do in `IDLE` (R74, R180, R182, R188 to R191, R193). -/
theorem exec_hostCode_idle (op : HostCode) (s : State) (h : seqOf s.seq = some .idle) :
    exec (decodeHostCode op) s = .next (
      match decodeHostCode op with
      | .prepare => performIfLegal .prepare (fun s => (s.emit (.pwrReq true)).goto .pPwr) s
      | .enable => performIfLegal .enable (fun s => finish .ok 0 0#2 { s with lc := .enabled }) s
      | .disable => performIfLegal .disable (fun s => finish .ok 0 0#2 { s with lc := .disabled }) s
      | .unprepare => performIfLegal .unprepare (fun s => (s.emit (.pwrReq false)).goto .uPwr) s
      | .getModes => finish .ok 0 1#2 s
      | _ => finish .illegalOp 0 0#2 s) := by
  have hl : legal s.lc .getModes = true := by cases s.lc <;> rfl
  rcases decodeHostCode_cases op with h1 | h1 | h1 | h1 | h1 | h1 | h1 | h1 <;> rw [h1] <;>
    simp only [exec, execReserved000, execPrepare, execEnable, execDisable, execUnprepare, execGetModes,
      execReserved110, execReserved111, request_of_idle _ _ _ h, refuseReserved]
  rw [performIfLegal_of_legal _ _ _ hl]

/-- Everything a request can do in `IDLE`: a first step, a completed operation, or a refusal. -/
theorem exec_hostCode_next (op : HostCode) (s t : State) (hi : seqOf s.seq = some .idle)
    (h : exec (decodeHostCode op) s = .next t) :
    (s.lc = .unprepared ∧ t = (s.emit (.pwrReq true)).goto .pPwr)
      ∨ (s.lc ≠ .enabled ∧ t = (s.emit (.pwrReq false)).goto .uPwr)
      ∨ ((s.lc = .prepared ∨ s.lc = .disabled) ∧ t = finish .ok 0 0#2 { s with lc := .enabled })
      ∨ (s.lc = .enabled ∧ t = finish .ok 0 0#2 { s with lc := .disabled })
      ∨ t = finish .ok 0 1#2 s
      ∨ t = finish .seqErr 0 0#2 s
      ∨ t = finish .illegalOp 0 0#2 s := by
  rw [exec_hostCode_idle op s hi] at h
  simp only [Host.Outcome.next.injEq] at h
  subst h
  cases hl : s.lc <;> split <;> simp [performIfLegal, hl, legal]

end Sys2Proof.Machine
end

