-- ==== Sys2Proof/Laws/Views.lean ====
section
/-! SUPPORT. The states of Safety.lean that are written field by field: one lemma per field, and that the shared operations are
exactly these states. -/

namespace Sys2Proof.Machine

/-! ### `taking` -/

@[simp] theorem taking_cfg (s : State) (rest : List Event) : (s.taking rest).cfg = s.cfg := rfl
@[simp] theorem taking_rom (s : State) (rest : List Event) : (s.taking rest).rom = s.rom := rfl
@[simp] theorem taking_lc (s : State) (rest : List Event) : (s.taking rest).lc = s.lc := rfl
@[simp] theorem taking_seq (s : State) (rest : List Event) : (s.taking rest).seq = s.seq := rfl
@[simp] theorem taking_stepIdx (s : State) (rest : List Event) : (s.taking rest).stepIdx = s.stepIdx := rfl
@[simp] theorem taking_romPtr (s : State) (rest : List Event) : (s.taking rest).romPtr = s.romPtr := rfl
@[simp] theorem taking_curLen (s : State) (rest : List Event) : (s.taking rest).curLen = s.curLen := rfl
@[simp] theorem taking_byteIdx (s : State) (rest : List Event) : (s.taking rest).byteIdx = s.byteIdx := rfl
@[simp] theorem taking_delayCnt (s : State) (rest : List Event) : (s.taking rest).delayCnt = s.delayCnt := rfl
@[simp] theorem taking_rstAssert (s : State) (rest : List Event) : (s.taking rest).rstAssert = s.rstAssert := rfl
@[simp] theorem taking_lastStatus (s : State) (rest : List Event) : (s.taking rest).lastStatus = s.lastStatus := rfl
@[simp] theorem taking_busWord (s : State) (rest : List Event) : (s.taking rest).busWord = s.busWord := rfl
@[simp] theorem taking_ctlKnown (s : State) (rest : List Event) : (s.taking rest).ctlKnown = s.ctlKnown := rfl
@[simp] theorem taking_inbox (s : State) (rest : List Event) : (s.taking rest).inbox = rest := rfl
@[simp] theorem taking_outs (s : State) (rest : List Event) : (s.taking rest).outs = [] := rfl
@[simp] theorem taking_trace (s : State) (rest : List Event) : (s.taking rest).trace = s.trace := rfl

/-! ### `answered` -/

@[simp] theorem answered_cfg (s : State) (st : StatusCode) (e : Nat) (n : BitVec 2) :
    (s.answered st e n).cfg = s.cfg := rfl
@[simp] theorem answered_rom (s : State) (st : StatusCode) (e : Nat) (n : BitVec 2) :
    (s.answered st e n).rom = s.rom := rfl
@[simp] theorem answered_lc (s : State) (st : StatusCode) (e : Nat) (n : BitVec 2) :
    (s.answered st e n).lc = s.lc := rfl
@[simp] theorem answered_seq (s : State) (st : StatusCode) (e : Nat) (n : BitVec 2) :
    (s.answered st e n).seq = 0x0#4 := rfl
@[simp] theorem answered_stepIdx (s : State) (st : StatusCode) (e : Nat) (n : BitVec 2) :
    (s.answered st e n).stepIdx = s.stepIdx := rfl
@[simp] theorem answered_romPtr (s : State) (st : StatusCode) (e : Nat) (n : BitVec 2) :
    (s.answered st e n).romPtr = s.romPtr := rfl
@[simp] theorem answered_curLen (s : State) (st : StatusCode) (e : Nat) (n : BitVec 2) :
    (s.answered st e n).curLen = s.curLen := rfl
@[simp] theorem answered_byteIdx (s : State) (st : StatusCode) (e : Nat) (n : BitVec 2) :
    (s.answered st e n).byteIdx = s.byteIdx := rfl
@[simp] theorem answered_delayCnt (s : State) (st : StatusCode) (e : Nat) (n : BitVec 2) :
    (s.answered st e n).delayCnt = s.delayCnt := rfl
@[simp] theorem answered_rstAssert (s : State) (st : StatusCode) (e : Nat) (n : BitVec 2) :
    (s.answered st e n).rstAssert = s.rstAssert := rfl
@[simp] theorem answered_lastStatus (s : State) (st : StatusCode) (e : Nat) (n : BitVec 2) :
    (s.answered st e n).lastStatus = st := rfl
@[simp] theorem answered_busWord (s : State) (st : StatusCode) (e : Nat) (n : BitVec 2) :
    (s.answered st e n).busWord = s.busWord := rfl
@[simp] theorem answered_ctlKnown (s : State) (st : StatusCode) (e : Nat) (n : BitVec 2) :
    (s.answered st e n).ctlKnown = s.ctlKnown := rfl
@[simp] theorem answered_inbox (s : State) (st : StatusCode) (e : Nat) (n : BitVec 2) :
    (s.answered st e n).inbox = s.inbox := rfl
@[simp] theorem answered_outs (s : State) (st : StatusCode) (e : Nat) (n : BitVec 2) :
    (s.answered st e n).outs = s.outs ++ [.respond st e n] := rfl
@[simp] theorem answered_trace (s : State) (st : StatusCode) (e : Nat) (n : BitVec 2) :
    (s.answered st e n).trace = s.trace ++ [.respond st e n] := rfl

/-! ### `issued` -/

@[simp] theorem issued_cfg (s : State) (w : BusWord) (q : SeqCode) : (s.issued w q).cfg = s.cfg := rfl
@[simp] theorem issued_rom (s : State) (w : BusWord) (q : SeqCode) : (s.issued w q).rom = s.rom := rfl
@[simp] theorem issued_lc (s : State) (w : BusWord) (q : SeqCode) : (s.issued w q).lc = s.lc := rfl
@[simp] theorem issued_seq (s : State) (w : BusWord) (q : SeqCode) : (s.issued w q).seq = q := rfl
@[simp] theorem issued_stepIdx (s : State) (w : BusWord) (q : SeqCode) : (s.issued w q).stepIdx = s.stepIdx := rfl
@[simp] theorem issued_romPtr (s : State) (w : BusWord) (q : SeqCode) : (s.issued w q).romPtr = s.romPtr := rfl
@[simp] theorem issued_curLen (s : State) (w : BusWord) (q : SeqCode) : (s.issued w q).curLen = s.curLen := rfl
@[simp] theorem issued_byteIdx (s : State) (w : BusWord) (q : SeqCode) : (s.issued w q).byteIdx = s.byteIdx := rfl
@[simp] theorem issued_delayCnt (s : State) (w : BusWord) (q : SeqCode) : (s.issued w q).delayCnt = s.delayCnt := rfl
@[simp] theorem issued_rstAssert (s : State) (w : BusWord) (q : SeqCode) :
    (s.issued w q).rstAssert = s.rstAssert := rfl
@[simp] theorem issued_lastStatus (s : State) (w : BusWord) (q : SeqCode) :
    (s.issued w q).lastStatus = s.lastStatus := rfl
@[simp] theorem issued_busWord (s : State) (w : BusWord) (q : SeqCode) : (s.issued w q).busWord = w := rfl
@[simp] theorem issued_ctlKnown (s : State) (w : BusWord) (q : SeqCode) : (s.issued w q).ctlKnown = s.ctlKnown := rfl
@[simp] theorem issued_inbox (s : State) (w : BusWord) (q : SeqCode) : (s.issued w q).inbox = s.inbox := rfl
@[simp] theorem issued_outs (s : State) (w : BusWord) (q : SeqCode) :
    (s.issued w q).outs = s.outs ++ [.busXfer w] := rfl
@[simp] theorem issued_trace (s : State) (w : BusWord) (q : SeqCode) :
    (s.issued w q).trace = s.trace ++ [.busXfer w] := rfl

/-! ### `pastHeader` -/

@[simp] theorem pastHeader_cfg (s : State) (len : Byte) : (s.pastHeader len).cfg = s.cfg := rfl
@[simp] theorem pastHeader_rom (s : State) (len : Byte) : (s.pastHeader len).rom = s.rom := rfl
@[simp] theorem pastHeader_lc (s : State) (len : Byte) : (s.pastHeader len).lc = s.lc := rfl
@[simp] theorem pastHeader_seq (s : State) (len : Byte) : (s.pastHeader len).seq = s.seq := rfl
@[simp] theorem pastHeader_stepIdx (s : State) (len : Byte) : (s.pastHeader len).stepIdx = s.stepIdx := rfl
@[simp] theorem pastHeader_romPtr (s : State) (len : Byte) : (s.pastHeader len).romPtr = s.romPtr + 2#16 := rfl
@[simp] theorem pastHeader_curLen (s : State) (len : Byte) : (s.pastHeader len).curLen = len := rfl
@[simp] theorem pastHeader_byteIdx (s : State) (len : Byte) : (s.pastHeader len).byteIdx = 0#8 := rfl
@[simp] theorem pastHeader_delayCnt (s : State) (len : Byte) : (s.pastHeader len).delayCnt = s.delayCnt := rfl
@[simp] theorem pastHeader_rstAssert (s : State) (len : Byte) : (s.pastHeader len).rstAssert = s.rstAssert := rfl
@[simp] theorem pastHeader_lastStatus (s : State) (len : Byte) : (s.pastHeader len).lastStatus = s.lastStatus := rfl
@[simp] theorem pastHeader_busWord (s : State) (len : Byte) : (s.pastHeader len).busWord = s.busWord := rfl
@[simp] theorem pastHeader_ctlKnown (s : State) (len : Byte) : (s.pastHeader len).ctlKnown = s.ctlKnown := rfl
@[simp] theorem pastHeader_inbox (s : State) (len : Byte) : (s.pastHeader len).inbox = s.inbox := rfl
@[simp] theorem pastHeader_outs (s : State) (len : Byte) : (s.pastHeader len).outs = s.outs := rfl
@[simp] theorem pastHeader_trace (s : State) (len : Byte) : (s.pastHeader len).trace = s.trace := rfl

/-! ### `delaying` -/

@[simp] theorem delaying_cfg (s : State) (n : Nat) (q : SeqCode) : (s.delaying n q).cfg = s.cfg := rfl
@[simp] theorem delaying_rom (s : State) (n : Nat) (q : SeqCode) : (s.delaying n q).rom = s.rom := rfl
@[simp] theorem delaying_lc (s : State) (n : Nat) (q : SeqCode) : (s.delaying n q).lc = s.lc := rfl
@[simp] theorem delaying_seq (s : State) (n : Nat) (q : SeqCode) : (s.delaying n q).seq = q := rfl
@[simp] theorem delaying_stepIdx (s : State) (n : Nat) (q : SeqCode) : (s.delaying n q).stepIdx = s.stepIdx := rfl
@[simp] theorem delaying_romPtr (s : State) (n : Nat) (q : SeqCode) : (s.delaying n q).romPtr = s.romPtr := rfl
@[simp] theorem delaying_curLen (s : State) (n : Nat) (q : SeqCode) : (s.delaying n q).curLen = s.curLen := rfl
@[simp] theorem delaying_byteIdx (s : State) (n : Nat) (q : SeqCode) : (s.delaying n q).byteIdx = s.byteIdx := rfl
@[simp] theorem delaying_delayCnt (s : State) (n : Nat) (q : SeqCode) :
    (s.delaying n q).delayCnt = BitVec.ofNat 8 n := rfl
@[simp] theorem delaying_rstAssert (s : State) (n : Nat) (q : SeqCode) :
    (s.delaying n q).rstAssert = s.rstAssert := rfl
@[simp] theorem delaying_lastStatus (s : State) (n : Nat) (q : SeqCode) :
    (s.delaying n q).lastStatus = s.lastStatus := rfl
@[simp] theorem delaying_busWord (s : State) (n : Nat) (q : SeqCode) : (s.delaying n q).busWord = s.busWord := rfl
@[simp] theorem delaying_ctlKnown (s : State) (n : Nat) (q : SeqCode) : (s.delaying n q).ctlKnown = s.ctlKnown := rfl
@[simp] theorem delaying_inbox (s : State) (n : Nat) (q : SeqCode) : (s.delaying n q).inbox = s.inbox := rfl
@[simp] theorem delaying_outs (s : State) (n : Nat) (q : SeqCode) : (s.delaying n q).outs = s.outs := rfl
@[simp] theorem delaying_trace (s : State) (n : Nat) (q : SeqCode) : (s.delaying n q).trace = s.trace := rfl

/-! ### `blockReset` -/

@[simp] theorem blockReset_cfg (s : State) : s.blockReset.cfg = s.cfg := rfl
@[simp] theorem blockReset_rom (s : State) : s.blockReset.rom = s.rom := rfl
@[simp] theorem blockReset_lc (s : State) : s.blockReset.lc = .unprepared := rfl
@[simp] theorem blockReset_seq (s : State) : s.blockReset.seq = 0x0#4 := rfl
@[simp] theorem blockReset_stepIdx (s : State) : s.blockReset.stepIdx = 0#8 := rfl
@[simp] theorem blockReset_romPtr (s : State) : s.blockReset.romPtr = 0#16 := rfl
@[simp] theorem blockReset_curLen (s : State) : s.blockReset.curLen = 0#8 := rfl
@[simp] theorem blockReset_byteIdx (s : State) : s.blockReset.byteIdx = 0#8 := rfl
@[simp] theorem blockReset_delayCnt (s : State) : s.blockReset.delayCnt = 0#8 := rfl
@[simp] theorem blockReset_rstAssert (s : State) : s.blockReset.rstAssert = false := rfl
@[simp] theorem blockReset_lastStatus (s : State) : s.blockReset.lastStatus = 0#3 := rfl
@[simp] theorem blockReset_busWord (s : State) : s.blockReset.busWord = 0#9 := rfl
@[simp] theorem blockReset_ctlKnown (s : State) : s.blockReset.ctlKnown = false := rfl
@[simp] theorem blockReset_inbox (s : State) : s.blockReset.inbox = s.inbox := rfl
@[simp] theorem blockReset_outs (s : State) : s.blockReset.outs = [] := rfl
@[simp] theorem blockReset_trace (s : State) : s.blockReset.trace = s.trace := rfl

/-! ### The shared operations as these states -/

theorem finish_eq (st : Status) (e : Nat) (n : BitVec 2) (s : State) : finish st e n s = s.answered st.code e n := rfl

theorem issueWord_eq (k : BusKind) (b : Byte) (x : SeqState) (s : State) :
    issueWord k b x s = s.issued (busEncode k b) x.code := rfl

theorem beginStepWith_eq (c len : Byte) (s : State) :
    beginStepWith c len s = (s.pastHeader len).issued (busEncode .command c) SeqState.xCmd.code := rfl

theorem startDelay_eq (n : Nat) (x : SeqState) (s : State) : startDelay n x s = s.delaying (n + 1) x.code := rfl

end Sys2Proof.Machine
end

