-- ==== Sys2Proof/Laws/Step.lean ====
section
/-! SUPPORT. What a step does: which input it takes, and one inversion lemma over every cell of the table of R40. -/

namespace Sys2Proof.Machine

/-! ### Which input is taken -/

theorem takeEnabled_held (held : List Event) (hh : ∀ x ∈ held, ∃ op, x = .req op) (e : Event) (after : List Event)
    (he : ¬ ∃ op, e = .req op) : takeEnabled true (held ++ e :: after) = some (e, held ++ after) := by
  induction held with
  | nil =>
    cases e <;> simp [takeEnabled]
    case req op => exact absurd ⟨op, rfl⟩ he
  | cons x rest ih =>
    obtain ⟨op, rfl⟩ := hh x (by simp)
    have := ih fun y hy => hh y (by simp [hy])
    simp [takeEnabled, this]

theorem takeEnabled_first (hold : Bool) (e : Event) (after : List Event) (h : hold = false ∨ ¬ ∃ op, e = .req op) :
    takeEnabled hold (e :: after) = some (e, after) := by
  cases e with
  | req op =>
    rcases h with h | h
    · simp [takeEnabled, h]
    · exact absurd ⟨op, rfl⟩ h
  | _ => simp [takeEnabled]

theorem takeEnabled_all_held (held : List Event) (hh : ∀ x ∈ held, ∃ op, x = .req op) :
    takeEnabled true held = none := by
  induction held with
  | nil => rfl
  | cons x rest ih =>
    obtain ⟨op, rfl⟩ := hh x (by simp)
    simp [takeEnabled, ih fun y hy => hh y (by simp [hy])]

/-- An input that is taken stood behind held requests only. -/
theorem takeEnabled_some (hold : Bool) (es rest : List Event) (e : Event) (h : takeEnabled hold es = some (e, rest)) :
    ∃ held after, es = held ++ e :: after ∧ rest = held ++ after ∧ (∀ x ∈ held, ∃ op, x = .req op)
      ∧ (held ≠ [] → hold = true) ∧ ((∃ op, e = .req op) → hold = false) := by
  induction es generalizing rest with
  | nil => simp [takeEnabled] at h
  | cons x xs ih =>
    by_cases hx : hold = true ∧ ∃ op, x = .req op
    · obtain ⟨hhold, op, rfl⟩ := hx
      simp only [takeEnabled, hhold, if_true, Option.map_eq_some_iff] at h
      obtain ⟨⟨e', rest'⟩, hrec, heq⟩ := h
      simp only [Prod.mk.injEq] at heq
      obtain ⟨rfl, rfl⟩ := heq
      rw [← hhold] at hrec
      obtain ⟨held, after, h1, h2, h3, h4, h5⟩ := ih _ hrec
      exact ⟨.req op :: held, after, by simp [h1], by simp [h2], by simpa using h3, fun _ => hhold, h5⟩
    · have hx' : hold = false ∨ ¬ ∃ op, x = .req op := by
        cases hold <;> simp_all
      rw [takeEnabled_first hold x xs hx'] at h
      simp only [Option.some.injEq, Prod.mk.injEq] at h
      obtain ⟨rfl, rfl⟩ := h
      refine ⟨[], xs, rfl, rfl, by simp, by simp, ?_⟩
      rintro ⟨op, rfl⟩
      rcases hx' with h1 | h1
      · exact h1
      · exact absurd ⟨op, rfl⟩ h1

/-- Where no input is taken there are held requests only. -/
theorem takeEnabled_none (hold : Bool) (es : List Event) (h : takeEnabled hold es = none) :
    ∀ x ∈ es, ∃ op, x = .req op := by
  induction es with
  | nil => simp
  | cons x xs ih =>
    cases x with
    | req op =>
      simp only [takeEnabled] at h
      split at h
      · simp only [Option.map_eq_none_iff] at h
        simpa using ih h
      · simp at h
    | _ => simp [takeEnabled] at h

theorem holds_of_used (s : State) (q : SeqState) (h : seqOf s.seq = some q) : s.holds = decide (q ≠ .idle) := by
  unfold State.holds
  rw [h]
  cases q <;> rfl

/-- `Sees` is what a step takes. -/
theorem Sees.take (s : State) (e : Event) (rest : List Event) (h : s.Sees e rest) :
    takeEnabled s.holds s.inbox = some (e, rest) := by
  obtain ⟨held, after, h1, h2, h3, h4, h5⟩ := h
  rw [h1, h2]
  by_cases hr : ∃ op, e = .req op
  · have hi := h5 hr
    have hnil : held = [] := by
      by_contra hne
      obtain ⟨q, hq, hqi⟩ := h4 hne
      rw [hi] at hq
      exact hqi (by simpa using hq.symm)
    subst hnil
    exact takeEnabled_first _ _ _ (.inl (by rw [holds_of_used s _ hi]; rfl))
  · by_cases hne : held = []
    · subst hne
      exact takeEnabled_first _ _ _ (.inr hr)
    · obtain ⟨q, hq, hqi⟩ := h4 hne
      rw [holds_of_used s q hq]
      simpa [hqi] using takeEnabled_held held h3 e after hr

/-- What holds of every input holds of the one that is taken and of the others. -/
theorem Sees.all (s : State) (e : Event) (rest : List Event) (h : s.Sees e rest) (p : Event → Bool)
    (hp : s.inbox.all p = true) : p e = true ∧ rest.all p = true := by
  obtain ⟨held, after, h1, h2, _⟩ := h
  rw [h1, List.all_append, List.all_cons, Bool.and_eq_true, Bool.and_eq_true] at hp
  rw [h2, List.all_append, Bool.and_eq_true]
  exact ⟨hp.2.1, hp.1, hp.2.2⟩

/-- A step runs the event it sees. -/
theorem step_of_sees (s : State) (e : Event) (rest : List Event) (h : s.Sees e rest) :
    step s = handle e (s.taking rest) := by
  simp [step, stepOnce, Sees.take s e rest h, State.taking, State.clearOuts]

/-- What a step takes in a used state, or in one where it is no request, is what it sees. -/
theorem sees_of_take (s : State) (e : Event) (rest : List Event) (h : takeEnabled s.holds s.inbox = some (e, rest))
    (hu : (∃ q, seqOf s.seq = some q) ∨ ¬ ∃ op, e = .req op) : s.Sees e rest := by
  obtain ⟨held, after, h1, h2, h3, h4, h5⟩ := takeEnabled_some _ _ _ _ h
  refine ⟨held, after, h1, h2, h3, ?_, ?_⟩
  · intro hne
    have hh := h4 hne
    cases hq : seqOf s.seq with
    | none => simp [State.holds, hq] at hh
    | some q => exact ⟨q, rfl, by rw [holds_of_used s q hq] at hh; simpa using hh⟩
  · intro hr
    have hh := h5 hr
    rcases hu with ⟨q, hq⟩ | hu
    · rw [holds_of_used s q hq] at hh
      rw [hq]
      simpa using hh
    · exact absurd hr hu

/-- A step that answers a next state waited, or it took an input it saw and handled it. -/
theorem step_next (s t : State) (h : step s = .next t) :
    ((∃ q, seqOf s.seq = some q) ∧ (∀ x ∈ s.inbox, ∃ op, x = .req op) ∧ t = s.clearOuts)
      ∨ ∃ e rest, s.Sees e rest ∧ handle e (s.taking rest) = .next t := by
  unfold step stepOnce at h
  split at h
  · next hn =>
    obtain ⟨q, hq, hk⟩ := withSeq_next _ _ _ h
    exact .inl ⟨⟨q, hq⟩, takeEnabled_none _ _ hn, by simpa using hk.symm⟩
  · next e rest he =>
    have h : handle e (s.taking rest) = .next t := h
    refine .inr ⟨e, rest, sees_of_take s e rest he ?_, h⟩
    by_cases hr : ∃ op, e = .req op
    · left
      obtain ⟨op, rfl⟩ := hr
      by_contra hu
      have hnone : seqOf s.seq = none := by
        cases hq : seqOf s.seq with
        | none => rfl
        | some q => exact absurd ⟨q, hq⟩ hu
      have hf := exec_hostCode_unused op (s.taking rest) hnone
      rw [show handle (.req op) (s.taking rest) = _ from hf] at h
      exact absurd h (by simp)
    · exact .inr hr

/-- A request that is seen is seen in `IDLE`. -/
theorem Sees.idle (s : State) (op : HostCode) (rest : List Event) (h : s.Sees (.req op) rest) :
    seqOf s.seq = some .idle := by
  obtain ⟨_, _, _, _, _, _, h5⟩ := h
  exact h5 ⟨op, rfl⟩

/-! ### Every move of the block -/

/-- The next states of a state, one constructor for each thing a step can do (R40), with what it needs. -/
inductive Move (s : State) : State → Prop
  | waits (q : SeqState) (hq : seqOf s.seq = some q) (hall : ∀ x ∈ s.inbox, ∃ op, x = .req op) : Move s s.clearOuts
  | reset (rest : List Event) (hs : s.Sees .blockReset rest) : Move s (s.taking rest).blockReset
  | powerOn (op : HostCode) (rest : List Event) (hs : s.Sees (.req op) rest) (hq : seqOf s.seq = some .idle)
      (hl : s.lc = .unprepared) : Move s (((s.taking rest).emit (.pwrReq true)).goto .pPwr)
  | powerOff (op : HostCode) (rest : List Event) (hs : s.Sees (.req op) rest) (hq : seqOf s.seq = some .idle)
      (hl : s.lc ≠ .enabled) : Move s (((s.taking rest).emit (.pwrReq false)).goto .uPwr)
  | enabled (op : HostCode) (rest : List Event) (hs : s.Sees (.req op) rest) (hq : seqOf s.seq = some .idle)
      (hl : s.lc = .prepared ∨ s.lc = .disabled) :
      Move s (finish .ok 0 0#2 { s.taking rest with lc := .enabled })
  | disabled (op : HostCode) (rest : List Event) (hs : s.Sees (.req op) rest) (hq : seqOf s.seq = some .idle)
      (hl : s.lc = .enabled) : Move s (finish .ok 0 0#2 { s.taking rest with lc := .disabled })
  | modes (op : HostCode) (rest : List Event) (hs : s.Sees (.req op) rest) (hq : seqOf s.seq = some .idle) :
      Move s (finish .ok 0 1#2 (s.taking rest))
  | refusedSeq (op : HostCode) (rest : List Event) (hs : s.Sees (.req op) rest) (hq : seqOf s.seq = some .idle) :
      Move s (finish .seqErr 0 0#2 (s.taking rest))
  | refusedOp (op : HostCode) (rest : List Event) (hs : s.Sees (.req op) rest) (hq : seqOf s.seq = some .idle) :
      Move s (finish .illegalOp 0 0#2 (s.taking rest))
  | poweredOn (rest : List Event) (hs : s.Sees (.pwrDone .ok) rest) (hq : seqOf s.seq = some .pPwr) :
      Move s (startDelay tPwrMs .pDlyPwr (s.taking rest))
  | powerOnFailed (e : Nat) (rest : List Event) (hs : s.Sees (.pwrDone (.err e)) rest) (hq : seqOf s.seq = some .pPwr) :
      Move s (finish .pwrErr e 0#2 (s.taking rest))
  | poweredOff (rest : List Event) (hs : s.Sees (.pwrDone .ok) rest) (hq : seqOf s.seq = some .uPwr) :
      Move s (finish .ok 0 0#2 { (s.taking rest).forgetController with lc := .unprepared })
  | powerOffFailed (e : Nat) (rest : List Event) (hs : s.Sees (.pwrDone (.err e)) rest)
      (hq : seqOf s.seq = some .uPwr) : Move s (finish .pwrErr e 0#2 (s.taking rest).forgetController)
  | powerIgnored (r : Reply) (rest : List Event) (q : SeqState) (hs : s.Sees (.pwrDone r) rest)
      (hq : seqOf s.seq = some q) (hn : q ≠ .pPwr ∧ q ≠ .uPwr) : Move s (s.taking rest)
  | sleepOutSent (rest : List Event) (hs : s.Sees (.busDone .ok) rest) (hq : seqOf s.seq = some .xSlp) :
      Move s (startDelay tSlpoutMs .xDlySlp (s.taking rest))
  | doneAfterCommand (rest : List Event) (hs : s.Sees (.busDone .ok) rest) (hq : seqOf s.seq = some .xCmd)
      (h0 : s.curLen = 0#8) (hn : (s.stepIdx + 1#8).toNat = s.cfg.nSteps) :
      Move s (scriptDone { s.taking rest with stepIdx := s.stepIdx + 1#8 })
  | stepAfterCommand (c len : Byte) (rest : List Event) (hs : s.Sees (.busDone .ok) rest)
      (hq : seqOf s.seq = some .xCmd) (h0 : s.curLen = 0#8) (hn : (s.stepIdx + 1#8).toNat ≠ s.cfg.nSteps)
      (hc : s.scriptRead s.romPtr.toNat = some c) (hl : s.scriptRead (s.romPtr.toNat + 1) = some len) :
      Move s (beginStepWith c len { s.taking rest with stepIdx := s.stepIdx + 1#8 })
  | firstData (b : Byte) (rest : List Event) (hs : s.Sees (.busDone .ok) rest) (hq : seqOf s.seq = some .xCmd)
      (h0 : s.curLen ≠ 0#8) (hb : s.scriptRead s.romPtr.toNat = some b) :
      Move s (issueWord .data b .xData (s.taking rest))
  | doneAfterData (rest : List Event) (hs : s.Sees (.busDone .ok) rest) (hq : seqOf s.seq = some .xData)
      (h0 : s.byteIdx + 1#8 = s.curLen) (hn : (s.stepIdx + 1#8).toNat = s.cfg.nSteps) :
      Move s (scriptDone { (s.taking rest).advanceByte with stepIdx := s.stepIdx + 1#8 })
  | stepAfterData (c len : Byte) (rest : List Event) (hs : s.Sees (.busDone .ok) rest)
      (hq : seqOf s.seq = some .xData) (h0 : s.byteIdx + 1#8 = s.curLen)
      (hn : (s.stepIdx + 1#8).toNat ≠ s.cfg.nSteps)
      (hc : s.scriptRead (s.romPtr + 1#16).toNat = some c) (hl : s.scriptRead ((s.romPtr + 1#16).toNat + 1) = some len) :
      Move s (beginStepWith c len { (s.taking rest).advanceByte with stepIdx := s.stepIdx + 1#8 })
  | nextData (b : Byte) (rest : List Event) (hs : s.Sees (.busDone .ok) rest) (hq : seqOf s.seq = some .xData)
      (h0 : s.byteIdx + 1#8 ≠ s.curLen) (hb : s.scriptRead (s.romPtr + 1#16).toNat = some b) :
      Move s (issueWord .data b .xData (s.taking rest).advanceByte)
  | busOkIgnored (rest : List Event) (q : SeqState) (hs : s.Sees (.busDone .ok) rest) (hq : seqOf s.seq = some q)
      (hn : q ≠ .xSlp ∧ q ≠ .xCmd ∧ q ≠ .xData) : Move s (s.taking rest)
  | busFailed (e : Nat) (rest : List Event) (hs : s.Sees (.busDone (.err e)) rest)
      (hq : seqOf s.seq = some .xSlp ∨ seqOf s.seq = some .xCmd ∨ seqOf s.seq = some .xData) :
      Move s (finish .busErr e 0#2 (s.taking rest).forgetController)
  | busErrIgnored (e : Nat) (rest : List Event) (q : SeqState) (hs : s.Sees (.busDone (.err e)) rest)
      (hq : seqOf s.seq = some q) (hn : q ≠ .xSlp ∧ q ≠ .xCmd ∧ q ≠ .xData) :
      Move s (s.taking rest).forgetController
  | ticks (rest : List Event) (q : SeqState) (hs : s.Sees .tick rest) (hq : seqOf s.seq = some q)
      (hd : q.isDelay = true) (h0 : s.delayCnt - 1#8 ≠ 0#8) :
      Move s { s.taking rest with delayCnt := s.delayCnt - 1#8 }
  | resetOn (rest : List Event) (hs : s.Sees .tick rest) (hq : seqOf s.seq = some .pDlyPwr)
      (h0 : s.delayCnt - 1#8 = 0#8) : Move s (assertReset { s.taking rest with delayCnt := 0#8 })
  | resetOff (rest : List Event) (hs : s.Sees .tick rest) (hq : seqOf s.seq = some .pDlyRst)
      (h0 : s.delayCnt - 1#8 = 0#8) : Move s (deassertReset { s.taking rest with delayCnt := 0#8 })
  | sleepOut (rest : List Event) (hs : s.Sees .tick rest) (hq : seqOf s.seq = some .pDlyPost)
      (h0 : s.delayCnt - 1#8 = 0#8) :
      Move s (issueWord .command s.cfg.slpoutCmd .xSlp { s.taking rest with delayCnt := 0#8 })
  | scriptStarts (c len : Byte) (rest : List Event) (hs : s.Sees .tick rest) (hq : seqOf s.seq = some .xDlySlp)
      (h0 : s.delayCnt - 1#8 = 0#8) (hc : s.scriptRead 0 = some c) (hl : s.scriptRead 1 = some len) :
      Move s (beginStepWith c len { s.taking rest with delayCnt := 0#8, stepIdx := 0#8, romPtr := 0#16 })
  | ready (rest : List Event) (hs : s.Sees .tick rest) (hq : seqOf s.seq = some .xDlyFin)
      (h0 : s.delayCnt - 1#8 = 0#8) : Move s (declareReady { s.taking rest with delayCnt := 0#8 })
  | tickIgnored (rest : List Event) (q : SeqState) (hs : s.Sees .tick rest) (hq : seqOf s.seq = some q)
      (hd : q.isDelay = false) : Move s (s.taking rest)

/-- A step that answers a next state made one of the moves. -/
theorem step_move (s t : State) (h : step s = .next t) : Move s t := by
  rcases step_next s t h with ⟨⟨q, hq⟩, hall, rfl⟩ | ⟨e, rest, hs, hh⟩
  · exact .waits q hq hall
  · cases e with
    | req op =>
      have hi := Sees.idle s op rest hs
      rcases exec_hostCode_next op (s.taking rest) t hi hh with
        ⟨hl, rfl⟩ | ⟨hl, rfl⟩ | ⟨hl, rfl⟩ | ⟨hl, rfl⟩ | rfl | rfl | rfl
      · exact .powerOn op rest hs hi hl
      · exact .powerOff op rest hs hi hl
      · exact .enabled op rest hs hi hl
      · exact .disabled op rest hs hi hl
      · exact .modes op rest hs hi
      · exact .refusedSeq op rest hs hi
      · exact .refusedOp op rest hs hi
    | pwrDone r =>
      rcases onPwrDone_next r (s.taking rest) t hh with
        ⟨hq, rfl, rfl⟩ | ⟨hq, e, rfl, rfl⟩ | ⟨hq, rfl, rfl⟩ | ⟨hq, e, rfl, rfl⟩ | ⟨⟨q, hq, hn⟩, rfl⟩
      · exact .poweredOn rest hs hq
      · exact .powerOnFailed e rest hs hq
      · exact .poweredOff rest hs hq
      · exact .powerOffFailed e rest hs hq
      · exact .powerIgnored r rest q hs hq hn
    | busDone r =>
      cases r with
      | ok =>
        rcases onBusOk_next (s.taking rest) t hh with
          ⟨hq, rfl⟩ | ⟨hq, h0, hn⟩ | ⟨hq, h0, hn⟩ | ⟨hq, h0, hn⟩ | ⟨hq, h0, hn⟩ | ⟨⟨q, hq, hn⟩, rfl⟩
        · exact .sleepOutSent rest hs hq
        · rcases nextStep_next _ _ hn with ⟨hm, rfl⟩ | ⟨hm, c, len, hc, hl, rfl⟩
          · exact .doneAfterCommand rest hs hq h0 hm
          · exact .stepAfterCommand c len rest hs hq h0 hm hc hl
        · obtain ⟨b, hb, rfl⟩ := sendDataByte_next _ _ hn
          exact .firstData b rest hs hq h0 hb
        · rcases nextStep_next _ _ hn with ⟨hm, rfl⟩ | ⟨hm, c, len, hc, hl, rfl⟩
          · exact .doneAfterData rest hs hq h0 hm
          · exact .stepAfterData c len rest hs hq h0 hm hc hl
        · obtain ⟨b, hb, rfl⟩ := sendDataByte_next _ _ hn
          exact .nextData b rest hs hq h0 hb
        · exact .busOkIgnored rest q hs hq hn
      | err e =>
        rcases onBusErr_next e (s.taking rest) t hh with ⟨hq, rfl⟩ | ⟨⟨q, hq, hn⟩, rfl⟩
        · exact .busFailed e rest hs hq
        · exact .busErrIgnored e rest q hs hq hn
    | tick =>
      rcases onTick_next (s.taking rest) t hh with
        ⟨q, hq, hd, h0, rfl⟩ | ⟨hq, h0, rfl⟩ | ⟨hq, h0, rfl⟩ | ⟨hq, h0, rfl⟩ | ⟨hq, h0, c, len, hc, hl, rfl⟩
          | ⟨hq, h0, rfl⟩ | ⟨⟨q, hq, hd⟩, rfl⟩
      · exact .ticks rest q hs hq hd h0
      · exact .resetOn rest hs hq h0
      · exact .resetOff rest hs hq h0
      · exact .sleepOut rest hs hq h0
      · exact .scriptStarts c len rest hs hq h0 hc hl
      · exact .ready rest hs hq h0
      · exact .tickIgnored rest q hs hq hd
    | blockReset =>
      have ht : t = (s.taking rest).blockReset := by simpa [handle] using hh.symm
      rw [ht]
      exact .reset rest hs

end Sys2Proof.Machine
end

