-- ==== Sys2Proof/Laws/Cycle.lean ====
section
/-! SUPPORT. One cycle of the ports: runs over a first step, and what an event that does not act leaves (R43). -/

namespace Sys2Proof.Machine

/-- A run begins with a step. -/
theorem run_of_next (n : Nat) (s t : State) (h : step s = .next t) :
    Host.Core.run Sys2Proof.core (n + 1) s = Host.Core.run Sys2Proof.core n t := by
  have h : Sys2Proof.core.step s = .next t := h
  simp only [Host.Core.run, h]

/-- A run of one step is the step. -/
theorem run_one (s : State) : Host.Core.run Sys2Proof.core 1 s = step s := by
  have h : ∀ r : Result, Sys2Proof.core.step s = r → Host.Core.run Sys2Proof.core 1 s = r := by
    intro r hr
    cases r <;> simp only [Host.Core.run, hr] <;> rfl
  exact h _ rfl

/-- An event other than a request, at the front of the inputs, is the one a step takes. -/
theorem step_of_head (s : State) (e : Event) (rest : List Event) (hi : s.inbox = e :: rest) (he : ¬ ∃ op, e = .req op) :
    step s = handle e (s.taking rest) :=
  step_of_sees s e rest ⟨[], rest, hi, rfl, by simp, by simp, fun h => absurd h he⟩

/-- A `PwrDone` that does not act is ignored (R43). -/
theorem onPwrDone_of_not_acts (r : Reply) (s : State) (q : SeqState) (hq : seqOf s.seq = some q)
    (ha : q.actsOn (.pwrDone r) = false) : onPwrDone r s = .next s := by
  unfold onPwrDone
  rw [withSeq_of_used s q _ hq]
  cases q <;> first | rfl | simp [SeqState.actsOn] at ha

/-- A `BusDone(Ok)` that does not act is ignored (R43). -/
theorem onBusOk_of_not_acts (s : State) (q : SeqState) (hq : seqOf s.seq = some q)
    (ha : q.actsOn (.busDone .ok) = false) : onBusOk s = .next s := by
  unfold onBusOk
  rw [withSeq_of_used s q _ hq]
  cases q <;> first | rfl | simp [SeqState.actsOn] at ha

/-- A `BusDone(Err)` that does not act is ignored but for the ghost (R33, R43). -/
theorem onBusErr_of_not_acts (e : Nat) (s : State) (q : SeqState) (hq : seqOf s.seq = some q)
    (ha : q.actsOn (.busDone (.err e)) = false) : onBusErr e s = .next s.forgetController := by
  unfold onBusErr
  rw [withSeq_of_used s q _ hq]
  cases q <;> first | rfl | simp [SeqState.actsOn] at ha

/-- A `Tick` that does not act is ignored (R43). -/
theorem onTick_of_not_acts (s : State) (q : SeqState) (hq : seqOf s.seq = some q) (ha : q.actsOn .tick = false) :
    onTick s = .next s := by
  unfold onTick
  rw [withSeq_of_used s q _ hq]
  cases q <;> first | rfl | simp [SeqState.actsOn] at ha

theorem acts_of_used (s : State) (q : SeqState) (hq : seqOf s.seq = some q) (e : Event) : s.acts e = q.actsOn e := by
  simp [State.acts, hq]

/-- Whether an event is a failed transfer's answer, which the ghost sees wherever it comes (R33). -/
def Event.isBusErr : Event → Bool
  | .busDone (.err _) => true
  | .busDone .ok | .req _ | .pwrDone _ | .tick | .blockReset => false

/-- A step that takes an event that does not act leaves all but the outputs and the ghost. -/
theorem step_of_not_acts (s : State) (q : SeqState) (hq : seqOf s.seq = some q) (e : Event) (rest : List Event)
    (hi : s.inbox = e :: rest) (ha : s.acts e = false) (hr : ¬ ∃ op, e = .req op) :
    step s = .next { s with inbox := rest, outs := [], ctlKnown := s.ctlKnown && !e.isBusErr } := by
  rw [step_of_head s e rest hi hr]
  rw [acts_of_used s q hq] at ha
  have hq' : seqOf (s.taking rest).seq = some q := hq
  cases e with
  | req op => exact absurd ⟨op, rfl⟩ hr
  | pwrDone r => exact (onPwrDone_of_not_acts r _ q hq' ha).trans (by simp [State.taking, Event.isBusErr])
  | tick => exact (onTick_of_not_acts _ q hq' ha).trans (by simp [State.taking, Event.isBusErr])
  | blockReset => cases q <;> simp [SeqState.actsOn] at ha
  | busDone r =>
    cases r with
    | ok => exact (onBusOk_of_not_acts _ q hq' ha).trans (by simp [State.taking, Event.isBusErr])
    | err x => exact (onBusErr_of_not_acts x _ q hq' ha).trans (by simp [State.taking, State.forgetController, Event.isBusErr])

/-- A run over events that do not act leaves all but the outputs and the ghost. -/
theorem run_of_not_acts (e : Event) (es : List Event) (s : State) (q : SeqState) (hq : seqOf s.seq = some q)
    (rest : List Event) (hn : ∀ x ∈ e :: es, s.acts x = false ∧ ¬ ∃ op, x = .req op) (n : Nat) :
    Host.Core.run Sys2Proof.core (es.length + 1 + n) { s with inbox := e :: es ++ rest }
      = Host.Core.run Sys2Proof.core n
        { s with inbox := rest, outs := [], ctlKnown := s.ctlKnown && !(e :: es).any Event.isBusErr } := by
  induction es generalizing s e with
  | nil =>
    have h := hn e (by simp)
    rw [show [].length + 1 + n = n + 1 by simp; omega,
      run_of_next _ _ _ (step_of_not_acts { s with inbox := [e] ++ rest } q hq e rest rfl h.1 h.2)]
    simp
  | cons x xs ih =>
    have h := hn e (by simp)
    have := ih x { s with outs := [], ctlKnown := s.ctlKnown && !e.isBusErr } hq fun y hy =>
      hn y (List.mem_cons_of_mem _ hy)
    rw [show (x :: xs).length + 1 + n = (xs.length + 1 + n) + 1 by simp; omega,
      run_of_next _ _ _ (step_of_not_acts { s with inbox := e :: x :: xs ++ rest } q hq e (x :: xs ++ rest) rfl h.1 h.2)]
    refine this.trans ?_
    simp [Bool.and_assoc]

end Sys2Proof.Machine
end

