-- ==== Sys2Proof/Laws/Decode.lean ====
section
/-! SUPPORT. The name the decoder gives a script entry: its bytes, its format and its length (R76, R79). -/

namespace Sys2Proof

/-- An entry has the same bytes under whichever name (R79). -/
theorem encode_nameEntry (c : Config) (k : Byte) (data : List Byte) :
    encode c (nameEntry c k data) = k :: BitVec.ofNat 8 data.length :: data := by
  unfold nameEntry
  split
  · rfl
  · split
    · next h => obtain ⟨rfl, rfl, rfl, rfl, rfl⟩ := h; rfl
    · rfl
  · rfl

theorem nameEntry_format (c : Config) (k : Byte) (data : List Byte) : (nameEntry c k data).format = .step := by
  unfold nameEntry
  split
  · rfl
  · split <;> rfl
  · rfl

theorem nameEntry_lenOk (c : Config) (k : Byte) (data : List Byte) (h : data.length ≤ 255) :
    (nameEntry c k data).lenOk = true := by
  unfold nameEntry
  split
  · rfl
  · split
    · rfl
    · simp [Instr.lenOk]
  · simpa [Instr.lenOk] using h

/-- The name is STEP itself, unless the bytes are those of CMD or of BANK. -/
theorem nameEntry_cases (c : Config) (k : Byte) (data : List Byte) :
    nameEntry c k data = .step k data ∨ (data = [] ∧ nameEntry c k data = .cmd k)
      ∨ ∃ idx, k = c.bankselCmd ∧ data = [c.bankMagic.b0, c.bankMagic.b1, c.bankMagic.b2, c.bankMagic.b3, idx]
        ∧ nameEntry c k data = .bank idx := by
  unfold nameEntry
  split
  · exact .inr (.inl ⟨rfl, rfl⟩)
  · split
    · next h =>
      obtain ⟨rfl, rfl, rfl, rfl, rfl⟩ := h
      exact .inr (.inr ⟨_, rfl, rfl, rfl⟩)
    · exact .inl rfl
  · exact .inl rfl

end Sys2Proof
end

