-- ==== Sys2Proof/Laws/Invariant.lean ====
section
/-! SUPPORT. The place in the script that the invariant speaks of, and the two operations that move there. -/

namespace Sys2Proof.Machine

theorem placeOk_xCmd (s : State) (hq : seqOf s.seq = some .xCmd) : s.placeOk = true ↔
    ∃ st, s.cfg.script[s.stepIdx.toNat]? = some st ∧ s.romPtr.toNat = s.cfg.stepBase s.stepIdx.toNat + 2
      ∧ s.curLen.toNat = st.data.length ∧ s.byteIdx = 0#8 ∧ s.busWord = busEncode .command st.cmd := by
  unfold State.placeOk
  rw [hq]
  cases h : s.cfg.script[s.stepIdx.toNat]? <;> simp [and_assoc]

theorem placeOk_xData (s : State) (hq : seqOf s.seq = some .xData) : s.placeOk = true ↔
    ∃ st, s.cfg.script[s.stepIdx.toNat]? = some st
      ∧ s.romPtr.toNat = s.cfg.stepBase s.stepIdx.toNat + 2 + s.byteIdx.toNat ∧ s.curLen.toNat = st.data.length
      ∧ s.byteIdx.toNat < st.data.length ∧ st.data[s.byteIdx.toNat]?.map (busEncode .data) = some s.busWord := by
  unfold State.placeOk
  rw [hq]
  cases h : s.cfg.script[s.stepIdx.toNat]? <;> simp [and_assoc]

/-- `begin_step` at the entry of step `step_idx` is in place. -/
theorem beginStepWith_place (s : State) (hv : s.cfg.valid = true) (hr : s.rom = romOf s.cfg)
    (hi : s.stepIdx.toNat < s.cfg.nSteps) (hp : s.romPtr.toNat = s.cfg.stepBase s.stepIdx.toNat) (c len : Byte)
    (hc : s.scriptRead s.romPtr.toNat = some c) (hl : s.scriptRead (s.romPtr.toNat + 1) = some len) :
    (beginStepWith c len s).placeOk = true := by
  obtain ⟨st, hst⟩ : ∃ st, s.cfg.script[s.stepIdx.toNat]? = some st :=
    ⟨_, List.getElem?_eq_getElem (by simpa [Config.nSteps] using hi)⟩
  have h1 := read_header _ _ _ hst
  have h2 := s.cfg.stepBase_end _ _ hst
  have h3 := s.cfg.valid_scriptBytes hv
  have h4 := s.cfg.valid_dataLength hv st (List.mem_of_getElem? hst)
  rw [State.scriptRead, hr, hp, h1.1] at hc
  rw [State.scriptRead, hr, hp, h1.2] at hl
  simp only [Option.some.injEq] at hc hl
  subst hc hl
  refine (placeOk_xCmd _ rfl).mpr ⟨st, hst, ?_, ?_, rfl, rfl⟩
  · simp [BitVec.toNat_add, hp]
    omega
  · simp
    omega

/-- Issuing the data byte at `rom_ptr`, data byte `byte_idx` of step `step_idx`, is in place. -/
theorem issueData_place (s : State) (hr : s.rom = romOf s.cfg) (st : ScriptStep)
    (hst : s.cfg.script[s.stepIdx.toNat]? = some st)
    (hp : s.romPtr.toNat = s.cfg.stepBase s.stepIdx.toNat + 2 + s.byteIdx.toNat)
    (hb : s.byteIdx.toNat < st.data.length) (hl : s.curLen.toNat = st.data.length) (b : Byte)
    (h : s.scriptRead s.romPtr.toNat = some b) : (issueWord .data b .xData s).placeOk = true := by
  rw [State.scriptRead, hr, hp, read_data _ _ _ hst _ hb] at h
  exact (placeOk_xData _ rfl).mpr ⟨st, hst, by simpa using hp, by simpa using hl, by simpa using hb, by simp [h]⟩

end Sys2Proof.Machine
end

