-- ==== Sys2Proof/Laws/PerInstr.lean ====
section
/-! SUPPORT. Statements about every instruction, one lemma per constructor (LAWS.json). -/

namespace Sys2Proof.Laws

/-- R82: `HOP` and `BW` words have a fixed width, one byte and two; an entry's length is 2 + its `len` byte. -/
def EncodedLength.Statement (i : Instr) : Prop :=
  ∀ c : Config, i.lenOk = true →
    match i.format with
    | .hop => (encode c i).length = 1
    | .bw => (encode c i).length = 2
    | .step => ∃ cmd len : Byte, ∃ data : List Byte, encode c i = cmd :: len :: data ∧ data.length = len.toNat

theorem EncodedLength.bwCmd (b : Byte) : EncodedLength.Statement (.bwCmd b) := fun _ _ => rfl

theorem EncodedLength.bwData (b : Byte) : EncodedLength.Statement (.bwData b) := fun _ _ => rfl

theorem EncodedLength.prepare : EncodedLength.Statement .prepare := fun _ _ => rfl

theorem EncodedLength.enable : EncodedLength.Statement .enable := fun _ _ => rfl

theorem EncodedLength.disable : EncodedLength.Statement .disable := fun _ _ => rfl

theorem EncodedLength.unprepare : EncodedLength.Statement .unprepare := fun _ _ => rfl

theorem EncodedLength.getModes : EncodedLength.Statement .getModes := fun _ _ => rfl

theorem EncodedLength.reserved000 : EncodedLength.Statement .reserved000 := fun _ _ => rfl

theorem EncodedLength.reserved110 : EncodedLength.Statement .reserved110 := fun _ _ => rfl

theorem EncodedLength.reserved111 : EncodedLength.Statement .reserved111 := fun _ _ => rfl

theorem EncodedLength.step (k : Byte) (data : List Byte) : EncodedLength.Statement (.step k data) := by
  intro c h
  have hl : data.length ≤ 255 := by simpa [Instr.lenOk] using h
  exact ⟨k, BitVec.ofNat 8 data.length, data, rfl, by simp; omega⟩

theorem EncodedLength.cmd (k : Byte) : EncodedLength.Statement (.cmd k) := fun _ _ => ⟨k, 0x00#8, [], rfl, rfl⟩

theorem EncodedLength.bank (idx : Byte) : EncodedLength.Statement (.bank idx) :=
  fun c _ => ⟨c.bankselCmd, 0x05#8, _, rfl, rfl⟩

end Sys2Proof.Laws
end

