-- ==== Sys2Proof/Tests/Slice0.lean ====
section
/-! SUPPORT. Tests. Expected values come from the spec: the vectors L2.1 to L2.7 and programs P1 to P6 of
95_test_vectors.md, with its test configuration TC and script S1, and the examples of the rules. The second half gives, for
every obligation with hypotheses, states and operands that meet them (`meets_…`). -/

namespace Sys2Proof.Tests

open Sys2Proof.Machine

/-! ### The test configuration TC and the script S1 (95_test_vectors.md) -/

/-- `BANK idx` with TC's bytes. -/
def bank (idx : Byte) : ScriptStep := ⟨0xFF#8, [0x77#8, 0x01#8, 0x00#8, 0x00#8, idx]⟩

/-- TC with a script. TC gives no mode parameters: 0x0777 and 0x0888 are this file's. -/
def tcWith (script : List ScriptStep) : Config :=
  { tRstMs := 30, errW := 8, script := script, slpoutCmd := 0x11#8, disponCmd := 0x29#8, colmodCmd := 0x3A#8,
    colmodArg := 0x60#8, bankselCmd := 0xFF#8, bankMagic := ⟨0x77#8, 0x01#8, 0x00#8, 0x00#8⟩, bank0Sel := 0x10#8,
    bank1Sel := 0x11#8, modeBusFormat := 0x0777#16, modeSyncFlags := 0x0888#16 }

def s1 : List ScriptStep :=
  [bank 0x10#8, ⟨0xC0#8, [0x63#8, 0x00#8]⟩, bank 0x11#8, ⟨0xE0#8, [0x00#8, 0x00#8, 0x02#8]⟩, bank 0x00#8,
    ⟨0x3A#8, [0x60#8]⟩, ⟨0x29#8, []⟩]

def tc : Config := tcWith s1

/-- A state of a block built with TC and S1: reset but for the sequencer state and the inputs. -/
def at' (q : SeqCode) (inbox : List Event) : State := { State.resetWith tc with seq := q, inbox := inbox }

/-- One field of the next state, where there is one. -/
def after {α : Type} (r : Result) (f : State → α) : Option α :=
  match r with
  | .next t => some (f t)
  | .fault _ => none
  | .refused _ => none

/-! ### Well-formedness: what the checks refuse -/

theorem wf_replicate (n : Nat) : (Instr.step 0xC0#8 (List.replicate n 0x00#8)).wf tc = decide (n ≤ 255) := by
  simp [Instr.wf, Instr.lenOk, Instr.bankOk]

theorem test_wf_step_256 : (Instr.step 0xC0#8 (List.replicate 256 0x00#8)).wf tc = false := wf_replicate 256

theorem test_wf_step_255 : (Instr.step 0xC0#8 (List.replicate 255 0x00#8)).wf tc = true := wf_replicate 255

theorem test_wf_bank : (Instr.bank 0x12#8).wf tc = false ∧ (Instr.bank 0x11#8).wf tc = true
    ∧ (Instr.bank 0x00#8).wf tc = true := by decide

/-! ### Decoding: words written out from 30_encoding.md -/

theorem test_decode_bus_words :
    decodeBusWord 0b0_1010_0101#9 = .bwCmd 0xA5#8 ∧ decodeBusWord 0b1_1010_0101#9 = .bwData 0xA5#8
      ∧ decodeBusWord 0b1_0000_0000#9 = .bwData 0x00#8 ∧ decodeBusWord 0b0_1000_0000#9 = .bwCmd 0x80#8 := by decide

theorem test_decode_host_codes :
    [0b000#3, 0b001#3, 0b010#3, 0b011#3, 0b100#3, 0b101#3, 0b110#3, 0b111#3].map decodeHostCode
      = [.reserved000, .prepare, .enable, .disable, .unprepare, .getModes, .reserved110, .reserved111] := by decide

theorem test_decode_step :
    decode tc .step [0b11000000#8, 0b00000010#8, 0b01100011#8, 0b00000000#8] = .ok (.step 0xC0#8 [0x63#8, 0x00#8], []) :=
  rfl

theorem test_decode_cmd : decode tc .step [0b00101001#8, 0b00000000#8] = .ok (.cmd 0x29#8, []) := rfl

theorem test_decode_bank :
    decode tc .step [0xFF#8, 0x05#8, 0x77#8, 0x01#8, 0x00#8, 0x00#8, 0x10#8, 0xC0#8] = .ok (.bank 0x10#8, [0xC0#8]) := rfl

theorem test_decode_rejects :
    decode tc .hop [0b00001001#8] = .error .notHostCode ∧ decode tc .bw [0x00#8, 0b00000010#8] = .error .notBusWord
      ∧ decode tc .step [0x3A#8, 0x01#8] = .error .truncated ∧ decode tc .bw [0x29#8] = .error .truncated :=
  ⟨rfl, rfl, rfl, rfl⟩

theorem test_table_words :
    decodeTableWord 8 0b011 = some .disable ∧ decodeTableWord 16 0x177 = some (.bwData 0x77#8)
      ∧ decodeTableWord 24 0x60013A = some (.step 0x3A#8 [0x60#8]) := ⟨rfl, rfl, rfl⟩

/-- The bus images of L2.2, as bus words. -/
theorem test_bus_images :
    scriptWords [⟨0x29#8, []⟩] = [0x029#9] ∧ scriptWords [⟨0x3A#8, [0x60#8]⟩] = [0x03A#9, 0x160#9]
      ∧ scriptWords [bank 0x10#8] = [0x0FF#9, 0x177#9, 0x101#9, 0x100#9, 0x100#9, 0x110#9] := by decide

/-! ### The script checks (L2.3) -/

theorem test_s1_valid : tc.valid = true ∧ tc.nSteps = 7 ∧ tc.scriptBytes = 35
    ∧ (List.range 7).map tc.stepBase = [0, 7, 11, 18, 23, 30, 33] := by decide

theorem test_checks_four_steps :
    (tcWith [bank 0x10#8, bank 0x11#8, bank 0x00#8, ⟨0x29#8, []⟩]).failedChecks
      = [.chkLength, .chkBank1Once, .chkBankOff, .chkColmod, .chkBankCount] := by decide

theorem test_checks_wrong_magic :
    (tcWith [bank 0x10#8, ⟨0xFF#8, [0x00#8, 0x00#8, 0x00#8, 0x00#8, 0x11#8]⟩, bank 0x00#8, ⟨0x3A#8, [0x60#8]⟩,
      ⟨0x29#8, []⟩]).failedChecks = [.chkBankForm, .chkBank1Once, .chkBankCount] := by decide

theorem test_checks_swapped_banks :
    (tcWith [bank 0x11#8, bank 0x10#8, bank 0x00#8, ⟨0x3A#8, [0x60#8]⟩, ⟨0x29#8, []⟩]).failedChecks
      = [.chkBank0First, .chkBank1Once, .chkBankCount] := by decide

theorem test_checks_dispon_data :
    (tcWith [bank 0x10#8, bank 0x11#8, bank 0x00#8, ⟨0x3A#8, [0x60#8]⟩, ⟨0x29#8, [0x00#8]⟩]).failedChecks
      = [.chkDisponLast] := by decide

/-! ### Reset, STATUS and the mode registers (L2.6, L2.7) -/

theorem test_reset_status : State.reset.status = 0x0000#16 := rfl

theorem test_status_reset_pulse : ({ at' 0x3#4 [] with rstAssert := true }).status = 0x0044#16 := by decide

theorem test_status_seq_err : ({ at' 0x0#4 [] with lc := .prepared, lastStatus := 0b011#3 }).status = 0x0019#16 := by
  decide

theorem test_mode_registers : modeRead tc 0x0#4 = 0x3918#16 ∧ modeRead tc 0x4#4 = 0x020D#16
    ∧ modeRead tc 0xB#4 = 0x0777#16 ∧ modeRead tc 0xE#4 = 0x0888#16 ∧ modeRead tc 0xF#4 = 0x0001#16 := by decide

/-! ### Instructions, one step each -/

/-- P1, event 4: the sleep-out word. -/
theorem test_bwCmd :
    after (step ({ at' 0x4#4 [.tick] with delayCnt := 1#8 })) (fun t => (t.outs, t.seq)) = some ([.busXfer 0x011#9], 0x5#4) := by
  decide

/-- R122's example: the first Data word of the bank select. -/
theorem test_bwData :
    after (step ({ at' 0x7#4 [.busDone .ok] with romPtr := 2#16, curLen := 5#8 })) (fun t => (t.outs, t.seq))
      = some ([.busXfer 0x177#9], 0x8#4) := by decide

/-- P1, event 1. -/
theorem test_prepare :
    after (step (at' 0x0#4 [.req 0b001#3])) (fun t => (t.outs, t.seq)) = some ([.pwrReq true], 0x1#4) := by decide

/-- P3: PREPARE in `Enabled`. -/
theorem test_prepare_enabled :
    after (step ({ at' 0x0#4 [.req 0b001#3] with lc := .enabled })) (fun t => (t.outs, t.lc))
      = some ([.respond 0b011#3 0 0b00#2], .enabled) := by decide

/-- L2.7: STATUS after ENABLE. -/
theorem test_enable :
    after (step ({ at' 0x0#4 [.req 0b010#3] with lc := .prepared })) State.status = some 0x0002#16 := by decide

/-- L2.7: STATUS after DISABLE. -/
theorem test_disable :
    after (step ({ at' 0x0#4 [.req 0b011#3] with lc := .enabled })) State.status = some 0x0003#16 := by decide

/-- P2: UNPREPARE in `Unprepared`. -/
theorem test_unprepare :
    after (step (at' 0x0#4 [.req 0b100#3])) (fun t => (t.outs, t.seq)) = some ([.pwrReq false], 0xA#4) := by decide

/-- P3: UNPREPARE in `Enabled`. -/
theorem test_unprepare_enabled :
    after (step ({ at' 0x0#4 [.req 0b100#3] with lc := .enabled })) State.outs = some [.respond 0b011#3 0 0b00#2] := by
  decide

/-- L2.4: GET_MODES. -/
theorem test_getModes :
    after (step ({ at' 0x0#4 [.req 0b101#3] with lc := .disabled })) (fun t => (t.outs, t.lc))
      = some ([.respond 0b000#3 0 0b01#2], .disabled) := by decide

/-- L2.7: STATUS after ILLEGAL_OP in `Unprepared`. -/
theorem test_reserved :
    after (step (at' 0x0#4 [.req 0b000#3])) State.status = some 0x0020#16
      ∧ after (step (at' 0x0#4 [.req 0b110#3])) State.status = some 0x0020#16
      ∧ after (step (at' 0x0#4 [.req 0b111#3])) State.status = some 0x0020#16 := by decide

/-- P1, events 10 and 11: the last Data word of step 0 is done, and step 1 (`C0 02 63 00` at 7) begins. -/
theorem test_step :
    after (step ({ at' 0x8#4 [.busDone .ok] with romPtr := 6#16, curLen := 5#8, byteIdx := 4#8 }))
      (fun t => (t.outs, t.seq, t.stepIdx, t.romPtr, t.curLen, t.byteIdx))
      = some ([.busXfer 0x0C0#9], 0x7#4, 1#8, 9#16, 2#8, 0#8) := by decide

/-- R121's example: ROM bytes `29 00` at `rom_ptr` 0. -/
theorem test_cmd :
    after (beginStep ({ at' 0x6#4 [] with rom := [(0, 0x29#8), (1, 0x00#8)] }))
      (fun t => (t.outs, t.curLen, t.romPtr, t.seq)) = some ([.busXfer 0x029#9], 0#8, 2#16, 0x7#4) := by decide

/-- P1, event 5: the Bank-0 select begins. -/
theorem test_bank :
    after (step ({ at' 0x6#4 [.tick] with delayCnt := 1#8, stepIdx := 9#8, romPtr := 35#16 }))
      (fun t => (t.outs, t.seq, t.stepIdx, t.romPtr, t.curLen)) = some ([.busXfer 0x0FF#9], 0x7#4, 0#8, 2#16, 5#8) := by
  decide

/-- P2: transfer 10 fails with 0x5A. -/
theorem test_bus_failure :
    after (step ({ at' 0x8#4 [.busDone (.err 0x5A)] with stepIdx := 1#8, romPtr := 10#16, curLen := 2#8, byteIdx := 1#8 }))
      (fun t => (t.outs, t.status, t.stepIdx, t.romPtr, t.byteIdx))
      = some ([.respond 0b001#3 0x5A 0b00#2], 0x0008#16, 1#8, 10#16, 1#8) := by decide

/-- L2.5: `start_delay(30, P_DLY_RST)` loads 31. -/
theorem test_reset_pulse :
    after (step ({ at' 0x2#4 [.tick] with delayCnt := 1#8 })) (fun t => (t.outs, t.delayCnt, t.status))
      = some ([.rstSet true], 31#8, 0x0044#16) := by decide

/-- R227 (d) with L2.5: a Tick in the cycle of the sleep-out answer is ignored; one in a later cycle counts. -/
theorem test_cycle_tick_ignored :
    after (cycle { busDone := true, tickMs := true } (at' 0x5#4 [])) (fun t => (t.seq, t.delayCnt)) = some (0x6#4, 121#8)
      ∧ after (runCycles [{ busDone := true }, { tickMs := true }] (at' 0x5#4 [])) (fun t => (t.seq, t.delayCnt))
        = some (0x6#4, 120#8) := by decide

/-- R227 (c): an answer that comes with the last Tick of a delay finds no transfer outstanding and is ignored; a request that
comes with a Tick is accepted, and one that comes while the block is busy is not. -/
theorem test_cycle_one_acts :
    after (cycle { busDone := true, tickMs := true } ({ at' 0x6#4 [] with delayCnt := 1#8 }))
        (fun t => (t.seq, t.romPtr, t.outs)) = some (0x7#4, 2#16, [.busXfer 0x0FF#9])
      ∧ after (cycle { reqValid := true, reqOp := 0b001#3, pwrDone := true, tickMs := true } (at' 0x0#4 []))
        (fun t => (t.seq, t.outs)) = some (0x1#4, [.pwrReq true])
      ∧ after (cycle { reqValid := true, reqOp := 0b001#3 } (at' 0x1#4 [])) (fun t => (t.seq, t.inbox)) = some (0x1#4, []) := by
  decide

/-- The host's placings run the instruction in the very next step (log 8). -/
theorem test_withFetchWord :
    after (step (State.reset.withFetchWord 8 0b101)) State.outs = some [.respond 0b000#3 0 0b01#2]
      ∧ after (step (State.reset.withFetchWord 16 0x0A5)) State.outs = some [.busXfer 0x0A5#9]
      ∧ after (step (State.reset.withFetchWord 16 0x1A5)) State.outs = some [.busXfer 0x1A5#9]
      ∧ after (step (State.reset.withFetchWord 24 0x60013A)) State.outs = some [.busXfer 0x03A#9] := ⟨rfl, rfl, rfl, rfl⟩

/-! ### The hypotheses of the obligations are met -/

/-- The first input is seen, if it is no request. -/
theorem sees_head (s : State) (e : Event) (rest : List Event) (h : s.inbox = e :: rest)
    (he : e = .tick ∨ e = .blockReset ∨ (∃ r, e = .pwrDone r) ∨ ∃ r, e = .busDone r) : s.Sees e rest := by
  refine ⟨[], rest, h, rfl, by simp, by simp, ?_⟩
  rintro ⟨op, rfl⟩
  simp at he

/-- A request at the head is seen in `IDLE`. -/
theorem sees_request (s : State) (op : HostCode) (rest : List Event) (h : s.inbox = .req op :: rest)
    (hq : s.seq = 0x0#4) : s.Sees (.req op) rest :=
  ⟨[], rest, h, rfl, by simp, by simp, fun _ => by rw [hq]; rfl⟩

/-- An input behind one held request is seen in a used state other than `IDLE`. -/
theorem sees_behind (s : State) (e : Event) (op : HostCode) (rest : List Event) (h : s.inbox = .req op :: e :: rest)
    (q : SeqState) (hq : seqOf s.seq = some q) (hn : q ≠ .idle)
    (he : e = .tick ∨ e = .blockReset ∨ (∃ r, e = .pwrDone r) ∨ ∃ r, e = .busDone r) : s.Sees e (.req op :: rest) := by
  refine ⟨[.req op], rest, h, rfl, by simp, fun _ => ⟨q, hq, hn⟩, ?_⟩
  rintro ⟨op', rfl⟩
  simp at he

/-- Without a block reset among the inputs none is seen. -/
theorem no_reset_seen (s : State) (h : Event.blockReset ∉ s.inbox) : ¬ ∃ rest, s.Sees .blockReset rest := by
  rintro ⟨rest, held, after, h1, _⟩
  rw [h1] at h
  simp at h

/-- The invariant holds in a state of TC whose fields pass the checks. -/
theorem inv_of_checks (s : State) (h1 : s.cfg = tc) (h2 : s.rom = romOf tc)
    (h3 : (seqOf s.seq).isSome && s.placeOk && s.delayOk && s.resetLineOk && s.lifecycleOk
      && decide (s.lastStatus.toNat ≤ 4) && s.inbox.all (Event.fits 8) && s.outs.all (OutEvent.fits 8)
      && s.trace.all (OutEvent.fits 8) = true) (h4 : s.ctlKnown = false) : s.Inv := by
  simp only [Bool.and_eq_true, decide_eq_true_eq] at h3
  obtain ⟨⟨⟨⟨⟨⟨⟨⟨a, b⟩, c⟩, d⟩, e⟩, f⟩, g⟩, i⟩, j⟩ := h3
  exact ⟨by rw [h1]; decide, by rw [h1, h2], a, b, c, d, e, f, by simp [h4], by rw [h1]; exact g, by rw [h1]; exact i,
    by rw [h1]; exact j⟩

/-- In `X_CMD` at DISPON, the last step of S1, its Command word outstanding. -/
def atLast (inbox : List Event) : State :=
  { at' 0x7#4 inbox with stepIdx := 6#8, romPtr := 35#16, curLen := 0#8, busWord := 0x029#9 }

/-- In `X_CMD` at step 0, the Bank-0 select. -/
def atBank (inbox : List Event) : State :=
  { at' 0x7#4 inbox with romPtr := 2#16, curLen := 5#8, busWord := 0x0FF#9 }

/-- In `X_DATA` at the last data byte of step 0. -/
def atBankEnd (inbox : List Event) : State :=
  { at' 0x8#4 inbox with romPtr := 6#16, curLen := 5#8, byteIdx := 4#8, busWord := 0x110#9 }

/-- In `X_DATA` at the first data byte of step 0. -/
def atBankData (inbox : List Event) : State :=
  { at' 0x8#4 inbox with romPtr := 2#16, curLen := 5#8, busWord := 0x177#9 }

/-- At the last Tick of a delay state. -/
def atTick (q : SeqCode) : State := { at' q [.tick] with delayCnt := 1#8 }

theorem meets_BusWordEncoderLaw : busEncode .data 0xFF#8 = busEncode .data 0xFF#8 := rfl

theorem meets_BusWordFormat : (0x0FF#9 : BusWord).getLsbD 8 = false ∧ (0x100#9 : BusWord).getLsbD 8 = true := by decide

theorem meets_DecodeOfEncode :
    (Instr.step 0xC0#8 (List.replicate 255 0x00#8)).lenOk = true ∧ (Instr.step 0x29#8 []).canonical tc ≠ .step 0x29#8 []
      ∧ (Instr.step 0xFF#8 [0x77#8, 0x01#8, 0x00#8, 0x00#8, 0x10#8]).canonical tc
        ≠ .step 0xFF#8 [0x77#8, 0x01#8, 0x00#8, 0x00#8, 0x10#8] := by
  refine ⟨?_, by decide, by decide⟩
  have h : ∀ n, (Instr.step 0xC0#8 (List.replicate n 0x00#8)).lenOk = decide (n ≤ 255) := fun n => by simp [Instr.lenOk]
  exact h 255

theorem meets_EntryBytesAreRecovered : decode tc .step [0x3A#8, 0x01#8, 0x60#8] = .ok (.step 0x3A#8 [0x60#8], []) := rfl

theorem meets_RomHoldsTheScriptImage :
    (tc.script[0]? = some (bank 0x10#8) ∧ (bank 0x10#8).data.length ≤ 255)
      ∧ tc.script[6]? = some ⟨0x29#8, []⟩ ∧ 4 < (bank 0x10#8).data.length ∧ tc.scriptBytes ≤ 35 := by decide

theorem meets_RomIsMappedBelowScriptBytes : tc.valid = true := by decide

theorem meets_BlockResetAbandonsTheOperation :
    (atBank [.blockReset]).Sees .blockReset [] ∧ (atBank [.req 0b100#3, .blockReset]).Sees .blockReset [.req 0b100#3]
      ∧ (at' 0xF#4 [.blockReset]).Sees .blockReset [] :=
  ⟨sees_head _ _ _ rfl (by simp), sees_behind _ _ _ _ rfl .xCmd rfl (by decide) (by simp), sees_head _ _ _ rfl (by simp)⟩

theorem meets_ModeRegisterValues : step (at' 0x0#4 []) = .next (at' 0x0#4 []) := rfl

theorem meets_PrepareRequestsPower :
    ((at' 0x0#4 []).seq = 0x0#4 ∧ (at' 0x0#4 []).lc = .unprepared)
      ∧ ({ at' 0x0#4 [] with lc := .disabled }).lc ≠ .unprepared := by decide

theorem meets_EnableIsAnsweredAtOnce :
    (at' 0x0#4 []).seq = 0x0#4 ∧ (∀ l : Lifecycle, ({ at' 0x0#4 [] with lc := l }).lc = l) := ⟨rfl, fun _ => rfl⟩

theorem meets_DisableIsAnsweredAtOnce :
    (at' 0x0#4 []).seq = 0x0#4 ∧ ({ at' 0x0#4 [] with lc := .enabled }).lc = .enabled
      ∧ (at' 0x0#4 []).lc ≠ .enabled := by decide

theorem meets_UnprepareRequestsPowerOff :
    (at' 0x0#4 []).seq = 0x0#4 ∧ (at' 0x0#4 []).lc ≠ .enabled
      ∧ ({ at' 0x0#4 [] with lc := .enabled }).lc = .enabled := by decide

theorem meets_GetModesAnswersOneMode : State.reset.seq = 0x0#4 ∧ (at' 0x8#4 []).cfg = (at' 0x0#4 []).cfg := ⟨rfl, rfl⟩

theorem meets_ReservedCodesAreAnsweredIllegal :
    State.reset.seq = 0x0#4 ∧ decodeHostCode 0b110#3 = decodeHostCode 0b110#3 := ⟨rfl, rfl⟩

theorem meets_HostOperationsWaitWhileBusy :
    ((at' 0x1#4 []).seq ≠ 0x0#4 ∧ (at' 0x1#4 []).seq.toNat ≤ 0xA)
      ∧ (at' 0xA#4 []).seq ≠ 0x0#4 ∧ (at' 0xA#4 []).seq.toNat ≤ 0xA := by decide

theorem meets_RequestDecode :
    (at' 0x0#4 [.req 0b000#3]).Sees (.req 0b000#3) [] ∧ (at' 0x0#4 [.req 0b010#3]).Sees (.req HostOp.enable.code) []
      ∧ legal .unprepared .enable = false ∧ (at' 0x0#4 [.req 0b001#3]).Sees (.req HostOp.prepare.code) []
      ∧ legal .unprepared .prepare = true :=
  ⟨sees_request _ _ _ rfl rfl, sees_request _ _ _ rfl rfl, rfl, sees_request _ _ _ rfl rfl, rfl⟩

theorem meets_StepRunsTheDecodedInstruction_request :
    (at' 0x0#4 [.req 0b111#3]).seq = 0x0#4 ∧ (at' 0x0#4 [.req 0b111#3]).inbox = [.req 0b111#3] := ⟨rfl, rfl⟩

/-- Step 0 at the script's start, step 1 after the last data byte of step 0, and DISPON's entry after a step with no data. -/
theorem meets_StepRunsTheDecodedInstruction_entry :
    (decode tc .step (encode tc (.bank 0x10#8)) = .ok (.bank 0x10#8, [])
        ∧ (atTick 0x6#4).delayCnt = 1#8 ∧ (atTick 0x6#4).Sees .tick []
        ∧ (atTick 0x6#4).rom.readN 0 7 = some (encode tc (.bank 0x10#8)))
      ∧ (decode tc .step [0xC0#8, 0x02#8, 0x63#8, 0x00#8] = .ok (.step 0xC0#8 [0x63#8, 0x00#8], [])
        ∧ (atBankEnd [.busDone .ok]).byteIdx + 1#8 = (atBankEnd [.busDone .ok]).curLen
        ∧ (atBankEnd [.busDone .ok]).Sees (.busDone .ok) []
        ∧ ((atBankEnd [.busDone .ok]).stepIdx + 1#8).toNat ≠ tc.nSteps
        ∧ (atBankEnd [.busDone .ok]).rom.readN ((atBankEnd [.busDone .ok]).romPtr + 1#16).toNat 4
          = some [0xC0#8, 0x02#8, 0x63#8, 0x00#8])
      ∧ (decode tc .step [0x29#8, 0x00#8] = .ok (.cmd 0x29#8, [])
        ∧ (atLast [.busDone .ok]).curLen = 0#8 ∧ (atLast [.busDone .ok]).Sees (.busDone .ok) []
        ∧ (({ atLast [.busDone .ok] with stepIdx := 5#8, romPtr := 33#16 }).stepIdx + 1#8).toNat ≠ tc.nSteps
        ∧ ({ atLast [.busDone .ok] with stepIdx := 5#8, romPtr := 33#16 }).rom.readN 33 2 = some [0x29#8, 0x00#8]) :=
  ⟨⟨rfl, rfl, sees_head _ _ _ rfl (by simp), rfl⟩, ⟨rfl, rfl, sees_head _ _ _ rfl (by simp), by decide, rfl⟩,
    ⟨rfl, rfl, sees_head _ _ _ rfl (by simp), by decide, rfl⟩⟩

theorem meets_StepRunsTheDecodedInstruction_word :
    ((atTick 0x4#4).delayCnt = 1#8 ∧ (atTick 0x4#4).Sees .tick [])
      ∧ ((atBank [.busDone .ok]).curLen ≠ 0#8 ∧ (atBank [.busDone .ok]).Sees (.busDone .ok) []
        ∧ (atBank [.busDone .ok]).rom.read (atBank [.busDone .ok]).romPtr.toNat = some 0x77#8)
      ∧ ((atBankData [.busDone .ok]).byteIdx + 1#8 ≠ (atBankData [.busDone .ok]).curLen
        ∧ (atBankData [.busDone .ok]).Sees (.busDone .ok) []
        ∧ (atBankData [.busDone .ok]).rom.read ((atBankData [.busDone .ok]).romPtr + 1#16).toNat = some 0x01#8) :=
  ⟨⟨rfl, sees_head _ _ _ rfl (by simp)⟩, ⟨by decide, sees_head _ _ _ rfl (by simp), rfl⟩,
    ⟨by decide, sees_head _ _ _ rfl (by simp), rfl⟩⟩

/-- Also for ScriptEntriesBegin: the used states end at 0xA. -/
theorem meets_BusWordsAreIssued :
    (at' 0x4#4 []).seq.toNat ≤ 0xA ∧ (at' 0x0#4 []).seq.toNat ≤ 0xA ∧ (at' 0xA#4 []).seq.toNat ≤ 0xA := by decide

theorem meets_ScriptEntriesBegin : (at' 0x6#4 []).seq.toNat ≤ 0xA := by decide

theorem meets_BeginStepAndNextStep :
    ((at' 0x6#4 []).rom.read 0 = some 0xFF#8 ∧ (at' 0x6#4 []).rom.read 1 = some 0x05#8)
      ∧ (({ at' 0x6#4 [] with romPtr := 34#16 }).rom.read 34 = some 0x00#8
        ∧ ({ at' 0x6#4 [] with romPtr := 34#16 }).rom.read 35 = none)
      ∧ ((atLast []).stepIdx + 1#8).toNat = tc.nSteps ∧ ((atBank []).stepIdx + 1#8).toNat ≠ tc.nSteps := by decide

theorem meets_CommandWordSent :
    (atLast [.busDone .ok]).Sees (.busDone .ok) [] ∧ (atLast [.busDone .ok]).curLen = 0#8
      ∧ (atBank [.busDone .ok]).Sees (.busDone .ok) [] ∧ (atBank [.busDone .ok]).curLen ≠ 0#8
      ∧ (atBank [.busDone .ok]).rom.read 2 = some 0x77#8
      ∧ ({ atBank [.busDone .ok] with romPtr := 35#16 }).rom.read 35 = none :=
  ⟨sees_head _ _ _ rfl (by simp), rfl, sees_head _ _ _ rfl (by simp), by decide, rfl, rfl⟩

theorem meets_DataWordSent :
    (atBankEnd [.busDone .ok]).Sees (.busDone .ok) []
      ∧ (atBankEnd [.busDone .ok]).byteIdx + 1#8 = (atBankEnd [.busDone .ok]).curLen
      ∧ (atBankData [.busDone .ok]).Sees (.busDone .ok) []
      ∧ (atBankData [.busDone .ok]).byteIdx + 1#8 ≠ (atBankData [.busDone .ok]).curLen
      ∧ (atBankData [.busDone .ok]).rom.read 3 = some 0x01#8
      ∧ ({ atBankData [.busDone .ok] with romPtr := 34#16 }).rom.read (34#16 + 1#16).toNat = none :=
  ⟨sees_head _ _ _ rfl (by simp), rfl, sees_head _ _ _ rfl (by simp), by decide, rfl, rfl⟩

theorem meets_FailedWordEndsTheOperation :
    ((atBank [.busDone (.err 0x5A)]).seq = 0x7#4 ∧ (atBank [.busDone (.err 0x5A)]).Sees (.busDone (.err 0x5A)) [])
      ∧ (atBankData [.busDone (.err 0)]).seq = 0x8#4 ∧ (atBankData [.busDone (.err 0)]).Sees (.busDone (.err 0)) [] :=
  ⟨⟨rfl, sees_head _ _ _ rfl (by simp)⟩, rfl, sees_head _ _ _ rfl (by simp)⟩

theorem meets_PowerEnableAnswered :
    (at' 0x1#4 [.pwrDone .ok]).Sees (.pwrDone .ok) [] ∧ (at' 0x1#4 [.pwrDone (.err 5)]).Sees (.pwrDone (.err 5)) []
      ∧ (∃ t, step (at' 0x1#4 [.pwrDone (.err 5)]) = .next t) ∧ (at' 0x0#4 []).lc = .unprepared :=
  ⟨sees_head _ _ _ rfl (by simp), sees_head _ _ _ rfl (by simp), ⟨_, rfl⟩, rfl⟩

/-- The last Tick of each of the five delays: PowerSettleEnds, ResetPulseEnds, PostResetSettleEnds, ScriptBegins and
FinalSettleEnds, and the second half of TickCountsDown. -/
theorem meets_last_ticks (q : SeqCode) : (atTick q).seq = q ∧ (atTick q).delayCnt = 1#8 ∧ (atTick q).Sees .tick [] :=
  ⟨rfl, rfl, sees_head _ _ _ rfl (by simp)⟩

theorem meets_FinalSettleEnds_only :
    after (step (atTick 0x9#4)) State.lc = some .prepared ∧ (atTick 0x9#4).lc ≠ .prepared := by decide

theorem meets_ResetPulseEnds_bounds : tc.valid = true ∧ ({ tc with tRstMs := 119 } : Config).valid = true
    ∧ ({ tc with tRstMs := 120 } : Config).valid = false := by decide

theorem meets_SleepOutSent :
    (at' 0x5#4 [.busDone .ok]).Sees (.busDone .ok) []
      ∧ (at' 0x5#4 [.busDone (.err 0xFF)]).Sees (.busDone (.err 0xFF)) [] :=
  ⟨sees_head _ _ _ rfl (by simp), sees_head _ _ _ rfl (by simp)⟩

theorem meets_ScriptBegins :
    ((atTick 0x6#4).rom.read 0 = some 0xFF#8 ∧ (atTick 0x6#4).rom.read 1 = some 0x05#8)
      ∧ ({ atTick 0x6#4 with rom := [(0, 0xFF#8)] }).rom.read 1 = none := by decide

theorem meets_PowerDisableAnswered :
    (at' 0xA#4 [.pwrDone .ok]).Sees (.pwrDone .ok) [] ∧ (at' 0xA#4 [.pwrDone (.err 5)]).Sees (.pwrDone (.err 5)) [] :=
  ⟨sees_head _ _ _ rfl (by simp), sees_head _ _ _ rfl (by simp)⟩

theorem meets_TickCountsDown :
    ({ atTick 0x2#4 with delayCnt := 2#8 }).Sees .tick [] ∧ 2 ≤ ({ atTick 0x2#4 with delayCnt := 2#8 }).delayCnt.toNat
      ∧ 2 ≤ ({ atTick 0x9#4 with delayCnt := 255#8 }).delayCnt.toNat :=
  ⟨sees_head _ _ _ rfl (by simp), by decide, by decide⟩

theorem meets_DelayTakesAllItsTicks :
    (0 < ({ at' 0x2#4 [] with delayCnt := 121#8 }).delayCnt.toNat ∧ (at' 0x2#4 []).inbox = ticks 0 ++ [])
      ∧ 120 < ({ at' 0x2#4 (ticks 120) with delayCnt := 121#8 }).delayCnt.toNat
      ∧ ({ at' 0x2#4 (ticks 120) with delayCnt := 121#8 }).inbox = ticks 120 ++ [] :=
  ⟨⟨by decide, rfl⟩, by decide, (List.append_nil _).symm⟩

theorem meets_RequestsAreHeldUntilIdle :
    ((at' 0x5#4 [.req 0b001#3, .busDone .ok, .req 0b100#3]).seq ≠ 0x0#4
        ∧ ∃ t, step (at' 0x5#4 [.req 0b001#3, .busDone .ok, .req 0b100#3]) = .next t)
      ∧ (at' 0x0#4 [.req 0b001#3]).inbox = [.req 0b001#3] := ⟨⟨by decide, ⟨_, rfl⟩⟩, rfl⟩

theorem meets_IgnoredEventsChangeNothing :
    ((at' 0x0#4 [.pwrDone .ok]).Sees (.pwrDone .ok) [] ∧ (at' 0x0#4 [.pwrDone .ok]).seq.toNat ≤ 0xA)
      ∧ ((at' 0x9#4 [.busDone .ok]).Sees (.busDone .ok) [] ∧ (at' 0x9#4 [.busDone .ok]).busValid = false)
      ∧ ((at' 0xA#4 [.busDone (.err 1)]).Sees (.busDone (.err 1)) [] ∧ (at' 0xA#4 [.busDone (.err 1)]).busValid = false)
      ∧ (at' 0xA#4 [.tick]).Sees .tick [] :=
  ⟨⟨sees_head _ _ _ rfl (by simp), by decide⟩, ⟨sees_head _ _ _ rfl (by simp), by decide⟩,
    ⟨sees_head _ _ _ rfl (by simp), by decide⟩, sees_head _ _ _ rfl (by simp)⟩

/-- One acting input beside ignored ones, none that acts, and a Tick beside each kind of answer. -/
theorem meets_IgnoredEventsChangeNothing_cycle :
    (portEvents (at' 0x5#4 []) { busDone := true, tickMs := true } = [.tick, .busDone .ok]
        ∧ (at' 0x5#4 []).acts (.busDone .ok) = true ∧ (at' 0x5#4 []).acts .tick = false)
      ∧ (portEvents (at' 0x0#4 []) { tickMs := true } = [.tick] ∧ (at' 0x0#4 []).acts .tick = false)
      ∧ (at' 0x5#4 []).busValid = true ∧ (at' 0xA#4 []).pwrValid = true := by decide

theorem meets_NoAnswerNoProgress :
    ((atBank [.req 0b100#3, .tick, .pwrDone .ok]).busValid = true
        ∧ (∀ r, Event.busDone r ∉ (atBank [.req 0b100#3, .tick, .pwrDone .ok]).inbox)
        ∧ Event.blockReset ∉ (atBank [.req 0b100#3, .tick, .pwrDone .ok]).inbox)
      ∧ (at' 0xA#4 [.tick, .busDone .ok]).pwrValid = true
      ∧ (∀ r, Event.pwrDone r ∉ (at' 0xA#4 [.tick, .busDone .ok]).inbox)
      ∧ Event.blockReset ∉ (at' 0xA#4 [.tick, .busDone .ok]).inbox :=
  ⟨⟨by decide, by simp [atBank, at'], by decide⟩, by decide, by simp [at'], by decide⟩

theorem meets_BadSeqFaults :
    (0xB ≤ (at' 0xB#4 []).seq.toNat ∧ (at' 0xB#4 []).inbox.head? ≠ some Event.blockReset)
      ∧ 0xB ≤ (at' 0xF#4 [.tick]).seq.toNat ∧ (at' 0xF#4 [.tick]).inbox.head? ≠ some Event.blockReset
      ∧ ∃ t, step (at' 0xF#4 [.blockReset]) = .next t :=
  ⟨by decide, by decide, by decide, _, rfl⟩

theorem meets_RomAndParametersNeverChange :
    (∃ t, step (atBank [.busDone .ok]) = .next t) ∧ ∃ t, exec (.bank 0x10#8) (at' 0x6#4 []) = .next t :=
  ⟨⟨_, rfl⟩, _, rfl⟩

/-- Outputs of each kind; with an answer outstanding in the second and the fourth. -/
theorem meets_OneRequestOutstanding :
    after (step (atTick 0x4#4)) State.outs = some [.busXfer 0x011#9]
      ∧ after (step (atBank [.busDone .ok])) State.outs = some [.busXfer 0x177#9] ∧ (atBank [.busDone .ok]).busValid = true
      ∧ after (step (at' 0x0#4 [.req 0b001#3])) State.outs = some [.pwrReq true]
      ∧ after (step (at' 0x1#4 [.pwrDone (.err 5)])) State.outs = some [.respond 0b010#3 5 0b00#2]
      ∧ (at' 0x1#4 []).pwrValid = true ∧ after (step (atTick 0x2#4)) State.outs = some [.rstSet true] := by decide

theorem meets_ResponsesEndTheOperation :
    after (step (atTick 0x9#4)) State.outs = some [.respond 0b000#3 0 0b00#2] := by decide

/-- A new `last_status`, a new reset level, a new bus word. -/
theorem meets_OutputRegistersChangeWithTheirOutputs :
    (¬ ∃ rest, (at' 0x0#4 [.req 0b111#3]).Sees .blockReset rest)
      ∧ after (step (at' 0x0#4 [.req 0b111#3])) State.lastStatus = some 0b100#3
      ∧ (¬ ∃ rest, (atTick 0x2#4).Sees .blockReset rest) ∧ after (step (atTick 0x2#4)) State.rstAssert = some true
      ∧ (¬ ∃ rest, (atTick 0x4#4).Sees .blockReset rest) ∧ after (step (atTick 0x4#4)) State.busWord = some 0x011#9 :=
  ⟨no_reset_seen _ (by decide), by decide, no_reset_seen _ (by decide), by decide, no_reset_seen _ (by decide), by decide⟩

theorem meets_LifecycleChangesOnlyOnSuccess :
    (¬ ∃ rest, (atTick 0x9#4).Sees .blockReset rest) ∧ after (step (atTick 0x9#4)) State.lc = some .prepared
      ∧ (atTick 0x9#4).lc = .unprepared := ⟨no_reset_seen _ (by decide), by decide, rfl⟩

theorem meets_NoWordAfterAFailure :
    ((atBank [.busDone (.err 7)]).busValid = true ∧ (atBank [.busDone (.err 7)]).Sees (.busDone (.err 7)) [])
      ∧ (at' 0x0#4 [.tick]).seq = 0x0#4 ∧ ∃ t, step (at' 0x0#4 [.tick]) = .next t :=
  ⟨⟨by decide, sees_head _ _ _ rfl (by simp)⟩, rfl, _, rfl⟩

theorem meets_ControllerKnownOnlyAfterPrepare :
    (after (step (atTick 0x9#4)) State.ctlKnown = some true ∧ (atTick 0x9#4).ctlKnown = false)
      ∧ ((atBank [.busDone (.err 7)]).Sees (.busDone (.err 7)) [] ∧ ∃ t, step (atBank [.busDone (.err 7)]) = .next t)
      ∧ (at' 0xA#4 [.pwrDone .ok]).Sees (.pwrDone .ok) [] ∧ ∃ t, step (at' 0xA#4 [.pwrDone .ok]) = .next t :=
  ⟨by decide, ⟨sees_head _ _ _ rfl (by simp), _, rfl⟩, sees_head _ _ _ rfl (by simp), _, rfl⟩

theorem meets_CleanLaunchMeetsTheInvariant : (State.resetWith tc).cleanLaunch := ⟨tc, by decide, rfl⟩

/-- A step from an invariant state in the middle of the script; also for InvariantStatesNeverStop. -/
theorem meets_StepKeepsTheInvariant :
    (atBankData [.busDone .ok]).Inv ∧ ∃ t, step (atBankData [.busDone .ok]) = .next t :=
  ⟨inv_of_checks _ rfl rfl (by decide) rfl, _, rfl⟩

theorem meets_InvariantStatesNeverStop : (atLast [.busDone .ok]).Inv := inv_of_checks _ rfl rfl (by decide) rfl

/-- A PREPARE that succeeds, one that fails on the bus and one that fails at power-enable. -/
theorem meets_OutcomeOfPrepare :
    ((atTick 0x9#4).Inv ∧ after (step (atTick 0x9#4)) State.outs = some [.respond 0b000#3 0 0b00#2])
      ∧ ((atLast [.busDone (.err 0xFF)]).Inv
        ∧ after (step (atLast [.busDone (.err 0xFF)])) State.outs = some [.respond 0b001#3 0xFF 0b00#2])
      ∧ (at' 0x1#4 [.pwrDone (.err 5)]).Inv
      ∧ after (step (at' 0x1#4 [.pwrDone (.err 5)])) State.outs = some [.respond 0b010#3 5 0b00#2] :=
  ⟨⟨inv_of_checks _ rfl rfl (by decide) rfl, by decide⟩, ⟨inv_of_checks _ rfl rfl (by decide) rfl, by decide⟩,
    inv_of_checks _ rfl rfl (by decide) rfl, by decide⟩

theorem meets_OnlyScriptWordsAreSent :
    (atTick 0x6#4).Inv ∧ after (step (atTick 0x6#4)) State.outs = some [.busXfer 0x0FF#9] :=
  ⟨inv_of_checks _ rfl rfl (by decide) rfl, by decide⟩

/-- Step 0 with five data bytes, and DISPON with none. -/
theorem meets_StepSendsItsWordsInOrder :
    (tc.script[0]? = some (bank 0x10#8) ∧ (at' 0x6#4 (busOks 5)).romPtr.toNat = tc.stepBase 0
        ∧ (at' 0x6#4 (busOks 5)).inbox = busOks (bank 0x10#8).data.length ++ [])
      ∧ tc.script[6]? = some ⟨0x29#8, []⟩ ∧ ({ at' 0x7#4 [] with stepIdx := 6#8, romPtr := 33#16 }).romPtr.toNat = tc.stepBase 6 :=
  ⟨⟨rfl, rfl, rfl⟩, rfl, rfl⟩

theorem prepareInputs_fit : (prepareInputs tc).all (Event.fits 8) = true := by
  have ht : ∀ n, (ticks n).all (Event.fits 8) = true := fun n => by simp [ticks, Event.fits]
  have hb : ∀ n, (busOks n).all (Event.fits 8) = true := fun n => by simp [busOks, Event.fits, Reply.fits]
  simp only [prepareInputs, List.all_cons, List.all_append, ht, hb]
  rfl

theorem meets_SuccessfulPrepare :
    (at' 0x0#4 (prepareInputs tc)).Inv ∧ (at' 0x0#4 (prepareInputs tc)).lc = .unprepared
      ∧ (at' 0x0#4 (prepareInputs tc)).inbox = prepareInputs tc ++ [] := by
  refine ⟨?_, rfl, (List.append_nil _).symm⟩
  exact inv_of_checks _ rfl rfl (by simp only [at', prepareInputs_fit]; rfl) rfl

/-- The first transfer of the script fails, and the last one, DISPON, fails. -/
theorem meets_ScriptStopsAtTheFirstFailure :
    ({ at' 0x6#4 [.tick, .busDone (.err 1)] with delayCnt := 1#8 }).Inv
      ∧ ({ at' 0x6#4 (.tick :: (busOks 27 ++ [Event.busDone (.err 1)])) with delayCnt := 1#8 }).Inv
      ∧ (scriptWords tc.script).length = 28 :=
  ⟨inv_of_checks _ rfl rfl (by decide) rfl, inv_of_checks _ rfl rfl (by decide) rfl, by decide⟩

theorem meets_BringUpOrder :
    (at' 0x0#4 (prepareInputs tc)).Inv ∧ (at' 0x0#4 (prepareInputs tc)).inbox = prepareInputs tc ++ [] :=
  ⟨meets_SuccessfulPrepare.1, meets_SuccessfulPrepare.2.2⟩

theorem meets_PrepareThenUnprepare :
    (at' 0x0#4 (prepareInputs tc ++ [.req 0b100#3, .pwrDone .ok])).Inv
      ∧ (at' 0x0#4 (prepareInputs tc ++ [.req 0b100#3, .pwrDone .ok])).lc = .unprepared := by
  refine ⟨inv_of_checks _ rfl rfl ?_ rfl, rfl⟩
  simp only [at', List.all_append, prepareInputs_fit]
  rfl

end Sys2Proof.Tests
end

section
/-! SUPPORT. The index lists of the script checks (spec 42_register_script.md R163, R167): their length, and how they are
put together. -/

namespace Sys2Proof

theorem indicesWhere_append (p : ScriptStep → Bool) (start : Nat) (l₁ l₂ : List ScriptStep) :
    indicesWhere p start (l₁ ++ l₂) = indicesWhere p start l₁ ++ indicesWhere p (start + l₁.length) l₂ := by
  induction l₁ generalizing start with
  | nil => rfl
  | cons st rest ih =>
    have hstart : start + 1 + rest.length = start + (rest.length + 1) := by omega
    cases hp : p st <;> simp [indicesWhere, hp, ih, hstart]

theorem length_indicesWhere (p : ScriptStep → Bool) (start : Nat) (l : List ScriptStep) :
    (indicesWhere p start l).length = l.countP p := by
  induction l generalizing start with
  | nil => rfl
  | cons st rest ih => cases hp : p st <;> simp [indicesWhere, hp, ih]

theorem indicesWhere_eq_nil (p : ScriptStep → Bool) (start : Nat) (l : List ScriptStep) (h : ∀ st ∈ l, ¬ p st = true) :
    indicesWhere p start l = [] := by
  rw [← List.length_eq_zero_iff, length_indicesWhere, List.countP_eq_zero]
  exact h

theorem exists_of_mem_indicesWhere (p : ScriptStep → Bool) (start i : Nat) (l : List ScriptStep)
    (h : i ∈ indicesWhere p start l) : ∃ st ∈ l, p st = true := by
  have hpos : 0 < (indicesWhere p start l).length := List.length_pos_of_mem h
  rwa [length_indicesWhere, List.countP_pos_iff] at hpos

end Sys2Proof
end

section
/-! SUPPORT. Validity taken apart: the bounds of R6 and one proposition per check (spec 42_register_script.md R160 to
R167). -/

namespace Sys2Proof.Config

/-- Both directions of R9's validity; `valid_passes` and `valid_ranges` are the first of them. -/
theorem valid_iff_passes (c : Config) :
    c.valid = true ↔ (30 ≤ c.tRstMs ∧ c.tRstMs ≤ 119 ∧ 1 ≤ c.errW) ∧ ∀ k : ScriptCheck, k.passes c = true := by
  constructor
  · exact fun h => ⟨c.valid_ranges h, c.valid_passes h⟩
  · rintro ⟨⟨hlo, hhi, herr⟩, hk⟩
    simp [valid, paramsInRange, failedChecks, hlo, hhi, herr, hk]

theorem chkLength_iff (c : Config) : c.chkLength = true ↔
    5 ≤ c.nSteps ∧ c.nSteps ≤ 255 ∧ c.scriptBytes ≤ 65535 ∧ ∀ st ∈ c.script, st.data.length ≤ 255 := by
  simp only [chkLength, Bool.and_eq_true, decide_eq_true_eq, List.all_eq_true]
  tauto

theorem chkBankForm_iff (c : Config) : c.chkBankForm = true ↔ ∀ st ∈ c.script, st.cmd = c.bankselCmd →
    st = c.bankStep c.bank0Sel ∨ st = c.bankStep c.bank1Sel ∨ st = c.bankStep bankOffSel := by
  simp only [chkBankForm, List.all_eq_true, Bool.or_eq_true, Bool.not_eq_true', beq_eq_false_iff_ne, decide_eq_true_eq,
    or_assoc, imp_iff_not_or, ne_eq]

theorem chkBank1Once_of_bank1Indices (c : Config) (j : Nat) (h : c.bank1Indices = [j]) :
    c.chkBank1Once = true ↔ 1 ≤ j ∧ j + 4 ≤ c.nSteps := by
  simp [chkBank1Once, h]

/-- R167's conditions on the parameters: the selects differ, and COLMOD and DISPON are no bank selects. -/
def codesDistinct (c : Config) : Prop :=
  c.bank0Sel ≠ c.bank1Sel ∧ c.bank0Sel ≠ bankOffSel ∧ c.bank1Sel ≠ bankOffSel
    ∧ c.colmodCmd ≠ c.bankselCmd ∧ c.disponCmd ≠ c.bankselCmd

theorem chkBankCount_iff (c : Config) : c.chkBankCount = true ↔
    (∃ j ∈ c.bank1Indices, c.bankselIndices = [0, j, c.nSteps - 3]) ∧ c.codesDistinct := by
  simp only [chkBankCount, codesDistinct, Bool.and_eq_true, decide_eq_true_eq, List.any_eq_true, and_assoc]

@[simp] theorem bankStep_inj (c : Config) (i j : Byte) : c.bankStep i = c.bankStep j ↔ i = j := by
  simp [bankStep]

@[simp] theorem bankStep_cmd (c : Config) (i : Byte) : (c.bankStep i).cmd = c.bankselCmd := rfl

@[simp] theorem colmodStep_cmd (c : Config) : c.colmodStep.cmd = c.colmodCmd := rfl

@[simp] theorem disponStep_cmd (c : Config) : c.disponStep.cmd = c.disponCmd := rfl

end Sys2Proof.Config
end

section
/-! SUPPORT. The framed shape of 42_register_script.md section 2: what the checks say of a script that has it, and that a
script which passes them has it. -/

namespace Sys2Proof

theorem ScriptStep.ne_of_cmd_ne {st st' : ScriptStep} (h : st.cmd ≠ st'.cmd) : st ≠ st' :=
  mt (congrArg ScriptStep.cmd) h

/-- The last three elements of a list, read from its end as R164 to R166 do. -/
theorem exists_append_of_reverse_getElem? {α : Type} (l : List α) (x y z : α) (hx : l.reverse[2]? = some x)
    (hy : l.reverse[1]? = some y) (hz : l.reverse[0]? = some z) : ∃ front, l = front ++ [x, y, z] := by
  obtain ⟨r, rfl⟩ : ∃ r : List α, l = r.reverse := ⟨l.reverse, l.reverse_reverse.symm⟩
  rw [List.reverse_reverse] at hx hy hz
  match r with
  | [] | [_] | [_, _] => simp at hx
  | a :: b :: d :: rest =>
    obtain rfl : d = x := by simpa using hx
    obtain rfl : b = y := by simpa using hy
    obtain rfl : a = z := by simpa using hz
    exact ⟨rest.reverse, by simp⟩

namespace Config

/-- The shape of a valid script, around the Bank-0 registers `B0` and the Bank-1 registers `B1`. -/
def framed (c : Config) (B0 B1 : List ScriptStep) : List ScriptStep :=
  [c.bankStep c.bank0Sel] ++ B0 ++ [c.bankStep c.bank1Sel] ++ B1
    ++ [c.bankStep bankOffSel, c.colmodStep, c.disponStep]

/-! ### A framed script passes the checks -/

/-- Where `p` holds nowhere in `B0` and `B1`, its indices are those of the framing steps. -/
theorem indicesWhere_framed (c : Config) (B0 B1 : List ScriptStep) (p : ScriptStep → Bool)
    (hp : ∀ st ∈ B0 ++ B1, ¬ p st = true) :
    indicesWhere p 0 (c.framed B0 B1) = indicesWhere p 0 [c.bankStep c.bank0Sel]
      ++ indicesWhere p (B0.length + 1) [c.bankStep c.bank1Sel]
      ++ indicesWhere p (B0.length + B1.length + 2) [c.bankStep bankOffSel, c.colmodStep, c.disponStep] := by
  have h0 (start : Nat) : indicesWhere p start B0 = [] :=
    indicesWhere_eq_nil p start B0 fun st hst => hp st (List.mem_append_left _ hst)
  have h1 (start : Nat) : indicesWhere p start B1 = [] :=
    indicesWhere_eq_nil p start B1 fun st hst => hp st (List.mem_append_right _ hst)
  have hsel : 0 + (1 + B0.length) = B0.length + 1 := by omega
  have hend : 0 + (1 + B0.length + 1 + B1.length) = B0.length + B1.length + 2 := by omega
  simp only [framed, indicesWhere_append, h0, h1, List.append_nil, List.length_append, List.length_singleton,
    hsel, hend]

section
variable (c : Config) (B0 B1 : List ScriptStep) (hs : c.script = c.framed B0 B1) (hd : c.codesDistinct)
  (hB : ∀ st ∈ B0 ++ B1, st.cmd ≠ c.bankselCmd)
include hs

theorem nSteps_of_framed : c.nSteps = B0.length + B1.length + 5 := by
  simp only [nSteps, hs, framed, List.length_append, List.length_cons, List.length_nil]
  omega

theorem ends_of_framed : c.chkBank0First = true ∧ c.chkBankOff = true ∧ c.chkColmod = true ∧ c.chkDisponLast = true := by
  simp [chkBank0First, chkBankOff, chkColmod, chkDisponLast, hs, framed]

include hd hB

theorem bankselIndices_of_framed : c.bankselIndices = [0, B0.length + 1, c.nSteps - 3] := by
  obtain ⟨-, -, -, hcol, hdis⟩ := hd
  rw [nSteps_of_framed c B0 B1 hs, bankselIndices, hs, indicesWhere_framed c B0 B1 _ fun st hst => by simpa using hB st hst]
  simp [indicesWhere, hcol, hdis]

theorem bank1Indices_of_framed : c.bank1Indices = [B0.length + 1] := by
  obtain ⟨h01, -, h1off, hcol, hdis⟩ := hd
  have hnotB : ∀ st ∈ B0 ++ B1, st ≠ c.bankStep c.bank1Sel := fun st hst => ScriptStep.ne_of_cmd_ne (hB st hst)
  have hnotCol : c.colmodStep ≠ c.bankStep c.bank1Sel := ScriptStep.ne_of_cmd_ne hcol
  have hnotDis : c.disponStep ≠ c.bankStep c.bank1Sel := ScriptStep.ne_of_cmd_ne hdis
  rw [bank1Indices, hs, indicesWhere_framed c B0 B1 _ fun st hst => by simpa using hnotB st hst]
  simp [indicesWhere, h01, h1off.symm, hnotCol, hnotDis]

theorem chkBankForm_of_framed : c.chkBankForm = true := by
  obtain ⟨-, -, -, hcol, hdis⟩ := hd
  rw [chkBankForm_iff, hs]
  intro st hst hcmd
  have hnotB : st ∉ B0 ++ B1 := fun h => hB st h hcmd
  have hnotCol : st ≠ c.colmodStep := ScriptStep.ne_of_cmd_ne (hcmd ▸ hcol.symm)
  have hnotDis : st ≠ c.disponStep := ScriptStep.ne_of_cmd_ne (hcmd ▸ hdis.symm)
  simp only [framed, List.mem_append, List.mem_cons, List.not_mem_nil] at hst hnotB
  tauto

theorem passes_of_framed (hlen : c.nSteps ≤ 255 ∧ c.scriptBytes ≤ 65535 ∧ ∀ st ∈ c.script, st.data.length ≤ 255)
    (k : ScriptCheck) : k.passes c = true := by
  have hn := nSteps_of_framed c B0 B1 hs
  have hj := bank1Indices_of_framed c B0 B1 hs hd hB
  obtain ⟨hbank0, hoff, hcolmod, hdispon⟩ := ends_of_framed c B0 B1 hs
  cases k with
  | chkLength => exact c.chkLength_iff.mpr ⟨by omega, hlen⟩
  | chkBankForm => exact chkBankForm_of_framed c B0 B1 hs hd hB
  | chkBank0First => exact hbank0
  | chkBank1Once => exact (c.chkBank1Once_of_bank1Indices _ hj).mpr ⟨by omega, by omega⟩
  | chkBankOff => exact hoff
  | chkColmod => exact hcolmod
  | chkDisponLast => exact hdispon
  | chkBankCount =>
    exact c.chkBankCount_iff.mpr ⟨⟨B0.length + 1, by simp [hj], bankselIndices_of_framed c B0 B1 hs hd hB⟩, hd⟩

end

/-! ### A script that passes the checks is framed -/

/-- Step 0 and the last three steps (R160, R162, R164 to R166). -/
theorem exists_middle_of_passes (c : Config) (h : ∀ k : ScriptCheck, k.passes c = true) :
    ∃ middle, c.script
      = c.bankStep c.bank0Sel :: middle ++ [c.bankStep bankOffSel, c.colmodStep, c.disponStep] := by
  obtain ⟨front, hfront⟩ := exists_append_of_reverse_getElem? c.script _ _ _ (of_decide_eq_true (h .chkBankOff))
    (of_decide_eq_true (h .chkColmod)) (of_decide_eq_true (h .chkDisponLast))
  have hlen : 5 ≤ c.script.length := (c.chkLength_iff.mp (h .chkLength)).1
  have hfirst : c.script[0]? = some (c.bankStep c.bank0Sel) := of_decide_eq_true (h .chkBank0First)
  rw [hfront] at hlen hfirst
  cases front with
  | nil => simp at hlen
  | cons st middle =>
    obtain rfl : st = c.bankStep c.bank0Sel := by simpa using hfirst
    exact ⟨middle, hfront⟩

/-- BANK(BANK1_SEL) stands in the script, and is none of the other framing steps, so it splits what is
between them; with the three selects of the frame counted, R167 leaves none for `B0` and `B1`. -/
theorem exists_framed_of_passes (c : Config) (h : ∀ k : ScriptCheck, k.passes c = true) :
    ∃ B0 B1, (∀ st ∈ B0 ++ B1, st.cmd ≠ c.bankselCmd) ∧ c.script = c.framed B0 B1 := by
  obtain ⟨middle, hscript⟩ := c.exists_middle_of_passes h
  obtain ⟨⟨j, hj, hsel⟩, h01, -, h1off, hcol, hdis⟩ := c.chkBankCount_iff.mp (h .chkBankCount)
  have hmem : c.bankStep c.bank1Sel ∈ middle := by
    obtain ⟨st, hst, hp⟩ := exists_of_mem_indicesWhere _ _ _ _ hj
    obtain rfl := of_decide_eq_true hp
    have hnotCol : c.bankStep c.bank1Sel ≠ c.colmodStep := ScriptStep.ne_of_cmd_ne hcol.symm
    have hnotDis : c.bankStep c.bank1Sel ≠ c.disponStep := ScriptStep.ne_of_cmd_ne hdis.symm
    simpa [hscript, h01.symm, h1off, hnotCol, hnotDis] using hst
  obtain ⟨B0, B1, rfl⟩ := List.append_of_mem hmem
  have hframed : c.script = c.framed B0 B1 := by simp [hscript, framed]
  have hcount : c.script.countP (fun st => st.cmd == c.bankselCmd) = 3 := by
    rw [← length_indicesWhere _ 0]
    exact congrArg List.length hsel
  have hnone : (B0 ++ B1).countP (fun st => st.cmd == c.bankselCmd) = 0 := by
    simp [hframed, framed, hcol, hdis] at hcount
    rw [List.countP_append]
    omega
  exact ⟨B0, B1, fun st hst => by simpa using List.countP_eq_zero.mp hnone st hst, hframed⟩

/-- 42_register_script.md section 2: validity by the shape of the script. -/
theorem valid_iff_framed (c : Config) : c.valid = true ↔
    (30 ≤ c.tRstMs ∧ c.tRstMs ≤ 119 ∧ 1 ≤ c.errW)
      ∧ (c.nSteps ≤ 255 ∧ c.scriptBytes ≤ 65535 ∧ ∀ st ∈ c.script, st.data.length ≤ 255)
      ∧ c.codesDistinct
      ∧ ∃ B0 B1, (∀ st ∈ B0 ++ B1, st.cmd ≠ c.bankselCmd) ∧ c.script = c.framed B0 B1 := by
  rw [valid_iff_passes]
  constructor
  · rintro ⟨hrange, h⟩
    exact ⟨hrange, (c.chkLength_iff.mp (h .chkLength)).2, (c.chkBankCount_iff.mp (h .chkBankCount)).2,
      c.exists_framed_of_passes h⟩
  · rintro ⟨hrange, hlen, hd, B0, B1, hB, hs⟩
    exact ⟨hrange, passes_of_framed c B0 B1 hs hd hB hlen⟩

theorem buildFrom_map_val (c : Config) :
    (buildFrom c).map ValidConfig.val = if c.valid = true then some c else none := by
  unfold buildFrom
  split <;> rfl

end Config

/-- Settles O9: R160 to R167 and the bounds of R6 are the framed shape (`Config.valid_iff_framed`), and R9 builds from
exactly the configurations that have it. -/
theorem validScriptsHaveTheFramedShape : Obligations.ValidScriptsHaveTheFramedShape :=
  ⟨Config.valid_iff_framed, Config.buildFrom_map_val⟩

end Sys2Proof
end

section
/-! SUPPORT. What every step keeps and what it may emit: frame lemmas over the moves of Laws/Step.lean (spec 10_state.md R21,
R25 to R27, R33, R40, R42; 20_memory.md R60). -/

namespace Sys2Proof.Machine

/-! ### The used codes of `seq` -/

theorem seqOf_isSome_iff (c : SeqCode) : (∃ q, seqOf c = some q) ↔ c.toNat ≤ 0xA := by
  rw [← Option.isSome_iff_exists, ← not_iff_not, Option.not_isSome_iff_eq_none, seqOf_eq_none_iff]
  omega

theorem seqOf_ne_idle {c : SeqCode} {q : SeqState} (hq : seqOf c = some q) (hc : c ≠ 0x0#4) : q ≠ .idle := by
  rintro rfl
  exact hc ((seqOf_eq_some_iff c .idle).mp hq)

/-! ### What a move keeps -/

section
variable {s t : State}

theorem Move.cfg_eq (m : Move s t) : t.cfg = s.cfg := by cases m <;> rfl

theorem Move.rom_eq (m : Move s t) : t.rom = s.rom := by cases m <;> rfl

/-- A step takes the input it sees and no other. -/
theorem Move.inbox_eq (m : Move s t) : t.inbox = s.inbox ∨ ∃ e rest, s.Sees e rest ∧ t.inbox = rest := by
  cases m with
  | waits => exact .inl rfl
  | _ => exact .inr ⟨_, _, ‹s.Sees _ _›, rfl⟩

/-- A step's outputs join the trace (R41). -/
theorem Move.trace_eq (m : Move s t) : t.trace = s.trace ++ t.outs := by
  cases m <;> simp

end

/-! ### What a step may emit -/

/-- A step emits at most one output, and each output register changes only with the output that carries it; `lc` changes
only with an OK answer (R21, R25 to R27). An error value is one that a collaborator gave (R34, R75). -/
inductive Emits (s t : State) : Prop
  | nothing (ho : t.outs = []) (hs : t.lastStatus = s.lastStatus) (hr : t.rstAssert = s.rstAssert)
      (hw : t.busWord = s.busWord) (hl : t.lc = s.lc)
  | power (on : Bool) (ho : t.outs = [.pwrReq on]) (hs : t.lastStatus = s.lastStatus) (hr : t.rstAssert = s.rstAssert)
      (hw : t.busWord = s.busWord) (hl : t.lc = s.lc)
  | resetLine (ho : t.outs = [.rstSet t.rstAssert]) (hs : t.lastStatus = s.lastStatus) (hw : t.busWord = s.busWord)
      (hl : t.lc = s.lc)
  | transfer (ho : t.outs = [.busXfer t.busWord]) (hs : t.lastStatus = s.lastStatus) (hr : t.rstAssert = s.rstAssert)
      (hl : t.lc = s.lc)
  | completion (ho : t.outs = [.respond 0b000#3 0 0b00#2]) (hs : t.lastStatus = 0b000#3) (hq : t.seq = 0x0#4)
      (hr : t.rstAssert = s.rstAssert) (hw : t.busWord = s.busWord)
  | answer (st : Status) (n : BitVec 2) (ho : t.outs = [.respond st.code 0 n]) (hs : t.lastStatus = st.code)
      (hn : st = .ok ∧ n = 1#2 ∨ st = .seqErr ∧ n = 0#2 ∨ st = .illegalOp ∧ n = 0#2)
      (hr : t.rstAssert = s.rstAssert) (hw : t.busWord = s.busWord) (hl : t.lc = s.lc)
  | failure (st : Status) (e : Nat) (rest : List Event) (ho : t.outs = [.respond st.code e 0#2])
      (hs : t.lastStatus = st.code)
      (he : st = .busErr ∧ s.Sees (.busDone (.err e)) rest ∨ st = .pwrErr ∧ s.Sees (.pwrDone (.err e)) rest)
      (hr : t.rstAssert = s.rstAssert) (hw : t.busWord = s.busWord) (hl : t.lc = s.lc)

/-- A step emits in one of these ways, or it takes a block reset (R251). -/
theorem Move.emits_or_reset {s t : State} (m : Move s t) :
    Emits s t ∨ ∃ rest, s.Sees .blockReset rest ∧ t = (s.taking rest).blockReset := by
  cases m with
  | reset rest hs => exact .inr ⟨rest, hs, rfl⟩
  | waits | poweredOn | powerIgnored | sleepOutSent | doneAfterCommand | doneAfterData | busOkIgnored | busErrIgnored
  | ticks | tickIgnored => exact .inl (.nothing rfl rfl rfl rfl rfl)
  | powerOn | powerOff => exact .inl (.power _ rfl rfl rfl rfl rfl)
  | resetOn | resetOff => exact .inl (.resetLine rfl rfl rfl rfl)
  | sleepOut | scriptStarts | stepAfterCommand | stepAfterData | firstData | nextData =>
    exact .inl (.transfer rfl rfl rfl rfl)
  | enabled | disabled | poweredOff | ready => exact .inl (.completion rfl rfl rfl rfl rfl)
  | modes => exact .inl (.answer .ok 1#2 rfl rfl (by simp) rfl rfl rfl)
  | refusedSeq => exact .inl (.answer .seqErr 0#2 rfl rfl (by simp) rfl rfl rfl)
  | refusedOp => exact .inl (.answer .illegalOp 0#2 rfl rfl (by simp) rfl rfl rfl)
  | powerOnFailed e rest hs | powerOffFailed e rest hs =>
    exact .inl (.failure .pwrErr e rest rfl rfl (.inr ⟨rfl, hs⟩) rfl rfl rfl)
  | busFailed e rest hs => exact .inl (.failure .busErr e rest rfl rfl (.inl ⟨rfl, hs⟩) rfl rfl rfl)

theorem Move.emits {s t : State} (m : Move s t) (hn : ¬ ∃ rest, s.Sees .blockReset rest) : Emits s t := by
  rcases m.emits_or_reset with he | ⟨rest, hs, -⟩
  · exact he
  · exact absurd ⟨rest, hs⟩ hn

/-- Where the ghost is true after a step it was true before it, and the panel was not unprepared, or a PREPARE completed
(R33, R156). -/
theorem Move.of_ctlKnown {s t : State} (m : Move s t) (ht : t.ctlKnown = true) :
    (s.ctlKnown = true ∧ (t.lc = s.lc ∨ t.lc = .enabled ∨ t.lc = .disabled))
      ∨ (seqOf s.seq = some .xDlyFin ∧ t.lc = .prepared ∧ t.outs = [.respond 0b000#3 0 0b00#2]) := by
  cases m with
  | ready rest hs hq => exact .inr ⟨hq, rfl, rfl⟩
  | enabled => exact .inl ⟨ht, .inr (.inl rfl)⟩
  | disabled => exact .inl ⟨ht, .inr (.inr rfl)⟩
  | reset | poweredOff | powerOffFailed | busFailed | busErrIgnored => exact absurd ht (by simp)
  | _ => exact .inl ⟨ht, .inl rfl⟩

/-- The next state is in a used state of the sequencer (R22). -/
theorem Move.seq_used {s t : State} (m : Move s t) : ∃ q, seqOf t.seq = some q := by
  cases m with
  | waits q hq | powerIgnored _ _ q _ hq | busOkIgnored _ q _ hq | busErrIgnored _ _ q _ hq | ticks _ q _ hq
  | tickIgnored _ q _ hq => exact ⟨q, hq⟩
  | _ => exact ⟨_, rfl⟩

end Sys2Proof.Machine
end

section
/-! SUPPORT. Places in the Script ROM (spec 20_memory.md R51; 41_controller_driver.md R121 to R126): where an entry and a data
byte stand, that both are mapped, and that the invariant leads from one place to the next. -/

namespace Sys2Proof.Machine

/-- `p` is where the entry of step `i` starts. -/
def EntryAt (c : Config) (i : Byte) (p : RomAddr) : Prop :=
  i.toNat < c.nSteps ∧ p.toNat = c.stepBase i.toNat

/-- `p` is where data byte `k` of step `i` stands, and that step has `len` data bytes. -/
def DataAt (c : Config) (i k len : Byte) (p : RomAddr) : Prop :=
  ∃ st, c.script[i.toNat]? = some st ∧ p.toNat = c.stepBase i.toNat + 2 + k.toNat ∧ k.toNat < st.data.length
    ∧ len.toNat = st.data.length

theorem DataAt.read {c : Config} {i k len : Byte} {p : RomAddr} (h : DataAt c i k len p) :
    ∃ b, (romOf c).read p.toNat = some b := by
  obtain ⟨st, hst, hp, hk, -⟩ := h
  rw [hp, read_data c _ st hst _ hk, List.getElem?_eq_getElem hk]
  exact ⟨_, rfl⟩

theorem EntryAt.read {c : Config} {i : Byte} {p : RomAddr} (h : EntryAt c i p) :
    ∃ cmd len, (romOf c).read p.toNat = some cmd ∧ (romOf c).read (p.toNat + 1) = some len := by
  obtain ⟨hi, hp⟩ := h
  have hst : c.script[i.toNat]? = some (c.script[i.toNat]'hi) := List.getElem?_eq_getElem hi
  rw [hp]
  exact ⟨_, _, read_header c _ _ hst⟩

section
variable {c : Config} (hv : c.valid = true)
include hv

theorem entryAt_zero : EntryAt c 0#8 0#16 := by
  have hn := c.valid_nSteps hv
  exact ⟨by simp; omega, by simp [Config.stepBase, scriptSize]⟩

/-- After the last byte of a step that is not the last one the next entry stands (R51, R126). -/
theorem entryAt_succ {i : Byte} {p : RomAddr} {st : ScriptStep} (hst : c.script[i.toNat]? = some st)
    (hp : p.toNat = c.stepBase i.toNat + 2 + st.data.length) (hn : (i + 1#8).toNat ≠ c.nSteps) :
    EntryAt c (i + 1#8) p := by
  have hi : i.toNat < c.nSteps := (List.getElem?_eq_some_iff.mp hst).1
  have h255 := (c.valid_nSteps hv).2
  have hsucc : (i + 1#8).toNat = i.toNat + 1 := by simp [BitVec.toNat_add]; omega
  rw [hsucc] at hn
  refine ⟨by omega, ?_⟩
  rw [hsucc, c.stepBase_succ _ _ hst, hp]
  omega

/-- One data byte further (R124): the place and the index rise by one, without wrapping. -/
theorem toNat_advance {i k len : Byte} {p : RomAddr} (h : DataAt c i k len p) :
    (p + 1#16).toNat = p.toNat + 1 ∧ (k + 1#8).toNat = k.toNat + 1 := by
  obtain ⟨st, hst, hp, hk, -⟩ := h
  have hend := c.stepBase_end _ _ hst
  have hbytes := c.valid_scriptBytes hv
  have hdata := c.valid_dataLength hv st (List.mem_of_getElem? hst)
  constructor <;> simp [BitVec.toNat_add] <;> omega

theorem DataAt.next {i k len : Byte} {p : RomAddr} (h : DataAt c i k len p) (hne : k + 1#8 ≠ len) :
    DataAt c i (k + 1#8) len (p + 1#16) := by
  obtain ⟨hp1, hk1⟩ := toNat_advance hv h
  obtain ⟨st, hst, hp, hk, hlen⟩ := h
  have : k.toNat + 1 ≠ st.data.length := by rwa [← hk1, ← hlen, ne_eq, ← BitVec.toNat_eq]
  exact ⟨st, hst, by omega, by omega, hlen⟩

theorem DataAt.nextEntry {i k len : Byte} {p : RomAddr} (h : DataAt c i k len p) (hlast : k + 1#8 = len)
    (hn : (i + 1#8).toNat ≠ c.nSteps) : EntryAt c (i + 1#8) (p + 1#16) := by
  obtain ⟨hp1, hk1⟩ := toNat_advance hv h
  obtain ⟨st, hst, hp, -, hlen⟩ := h
  exact entryAt_succ hv hst (by rw [hp1, hp, ← hlen, ← hlast, hk1]; omega) hn

end

/-! ### Where the invariant says the block is -/

section
variable {s : State} (hi : s.Inv)
include hi

theorem State.Inv.dataAt_of_xData (hq : seqOf s.seq = some .xData) :
    DataAt s.cfg s.stepIdx s.byteIdx s.curLen s.romPtr := by
  obtain ⟨st, hst, hp, hlen, hk, -⟩ := (placeOk_xData s hq).mp hi.placeOk
  exact ⟨st, hst, hp, hk, hlen⟩

theorem State.Inv.dataAt_of_xCmd (hq : seqOf s.seq = some .xCmd) (h0 : s.curLen ≠ 0#8) :
    DataAt s.cfg s.stepIdx s.byteIdx s.curLen s.romPtr := by
  obtain ⟨st, hst, hp, hlen, hk, -⟩ := (placeOk_xCmd s hq).mp hi.placeOk
  have hpos : s.curLen.toNat ≠ 0 := fun h => h0 (BitVec.eq_of_toNat_eq h)
  exact ⟨st, hst, by simp [hp, hk], by simp [hk]; omega, hlen⟩

theorem State.Inv.entryAt_of_xCmd (hq : seqOf s.seq = some .xCmd) (h0 : s.curLen = 0#8)
    (hn : (s.stepIdx + 1#8).toNat ≠ s.cfg.nSteps) : EntryAt s.cfg (s.stepIdx + 1#8) s.romPtr := by
  obtain ⟨st, hst, hp, hlen, -⟩ := (placeOk_xCmd s hq).mp hi.placeOk
  exact entryAt_succ hi.cfgValid hst (by rw [hp, ← hlen, h0]; rfl) hn

end

end Sys2Proof.Machine
end

section
/-! SUPPORT. The invariant in two halves. What it says of the outputs, the inputs and the lifecycle follows from what a step
emits and keeps; what it says of the sequencer is one lemma for each kind of sequencer state a step enters. -/

namespace Sys2Proof.Machine

/-! ### The half that speaks of the sequencer -/

/-- What a delay state loads into `delay_cnt`, the most it can hold there (R24, R230). -/
def SeqState.ticks (c : Config) : SeqState → Nat
  | .pDlyPwr => tPwrMs + 1
  | .pDlyRst => c.tRstMs + 1
  | .pDlyPost => tPostRstMs + 1
  | .xDlySlp => tSlpoutMs + 1
  | .xDlyFin => tFinalMs + 1
  | .idle | .pPwr | .xSlp | .xCmd | .xData | .uPwr => 0

/-- The states in which a transfer is outstanding (R37). -/
def SeqState.isTransfer : SeqState → Bool
  | .xSlp | .xCmd | .xData => true
  | .idle | .pPwr | .pDlyPwr | .pDlyRst | .pDlyPost | .xDlySlp | .xDlyFin | .uPwr => false

/-- The states of a PREPARE that is running (R182 to R186, R151 to R156). -/
def SeqState.isPrepare : SeqState → Bool
  | .pPwr | .pDlyPwr | .pDlyRst | .pDlyPost | .xSlp | .xDlySlp | .xCmd | .xData | .xDlyFin => true
  | .idle | .uPwr => false

theorem SeqState.not_isTransfer_of_isDelay {q : SeqState} (h : q.isDelay = true) : q.isTransfer = false := by
  cases q <;> revert h <;> decide

theorem delayOk_iff (s : State) (q : SeqState) (hq : seqOf s.seq = some q) : s.delayOk = true ↔
    (q.isDelay = true → 1 ≤ s.delayCnt.toNat ∧ s.delayCnt.toNat ≤ q.ticks s.cfg) := by
  unfold State.delayOk
  rw [hq]
  cases q <;> simp [SeqState.isDelay, SeqState.ticks]

theorem placeOk_of_not_transfer (s : State) (q : SeqState) (hq : seqOf s.seq = some q) (hn : q.isTransfer = false) :
    s.placeOk = true := by
  unfold State.placeOk
  rw [hq]
  revert hn
  cases q <;> simp [SeqState.isTransfer]

theorem resetLineOk_iff (s : State) (q : SeqState) (hq : seqOf s.seq = some q) :
    s.resetLineOk = true ↔ s.rstAssert = decide (q = .pDlyRst) := by
  simp [State.resetLineOk, hq]

theorem lifecycleOk_iff (s : State) (q : SeqState) (hq : seqOf s.seq = some q) : s.lifecycleOk = true ↔
    (q.isPrepare = true → s.lc = .unprepared) ∧ (q = .uPwr → s.lc ≠ .enabled) := by
  unfold State.lifecycleOk
  rw [hq]
  cases q <;> simp [SeqState.isPrepare]

/-- What the invariant says of a state whose sequencer is in `q`. -/
structure State.SeqOk (s : State) (q : SeqState) : Prop where
  used      : seqOf s.seq = some q
  place     : s.placeOk = true
  delay     : q.isDelay = true → 1 ≤ s.delayCnt.toNat ∧ s.delayCnt.toNat ≤ q.ticks s.cfg
  line      : s.rstAssert = decide (q = .pDlyRst)
  prepare   : q.isPrepare = true → s.lc = .unprepared
  unprepare : q = .uPwr → s.lc ≠ .enabled

theorem State.Inv.seqOk {s : State} (hi : s.Inv) {q : SeqState} (hq : seqOf s.seq = some q) : s.SeqOk q where
  used := hq
  place := hi.placeOk
  delay := (delayOk_iff s q hq).mp hi.delayOk
  line := (resetLineOk_iff s q hq).mp hi.resetLineOk
  prepare := ((lifecycleOk_iff s q hq).mp hi.lifecycleOk).1
  unprepare := ((lifecycleOk_iff s q hq).mp hi.lifecycleOk).2

section
variable {s : State} {q : SeqState} (h : s.SeqOk q)
include h

theorem State.SeqOk.clearOuts : s.clearOuts.SeqOk q := ⟨h.used, h.place, h.delay, h.line, h.prepare, h.unprepare⟩

theorem State.SeqOk.taking (rest : List Event) : (s.taking rest).SeqOk q :=
  ⟨h.used, h.place, h.delay, h.line, h.prepare, h.unprepare⟩

theorem State.SeqOk.forgetController : s.forgetController.SeqOk q :=
  ⟨h.used, h.place, h.delay, h.line, h.prepare, h.unprepare⟩

/-- A Tick that is not the last one leaves a delay with fewer Ticks to come (R231). -/
theorem State.SeqOk.countDown (hd : q.isDelay = true) (h0 : s.delayCnt - 1#8 ≠ 0#8) :
    { s with delayCnt := s.delayCnt - 1#8 }.SeqOk q where
  used := h.used
  place := placeOk_of_not_transfer _ q h.used (SeqState.not_isTransfer_of_isDelay hd)
  delay _ := by
    obtain ⟨hlo, hhi⟩ := h.delay hd
    have hsub : (s.delayCnt - 1#8).toNat = s.delayCnt.toNat - 1 := by simp [BitVec.toNat_sub]; omega
    have hpos : (s.delayCnt - 1#8).toNat ≠ 0 := fun hz => h0 (BitVec.eq_of_toNat_eq hz)
    exact ⟨by simp only; omega, by simp only; omega⟩
  line := h.line
  prepare := h.prepare
  unprepare := h.unprepare

end

/-! One lemma for each kind of state a step enters. -/

theorem seqOk_idle (s : State) (hq : seqOf s.seq = some .idle) (hr : s.rstAssert = false) : s.SeqOk .idle where
  used := hq
  place := placeOk_of_not_transfer s _ hq rfl
  delay := nofun
  line := hr
  prepare := nofun
  unprepare := nofun

/-- PREPARE and UNPREPARE wait for the supply (R182, R191). -/
theorem seqOk_pPwr (s : State) (hq : seqOf s.seq = some .pPwr) (hr : s.rstAssert = false) (hl : s.lc = .unprepared) :
    s.SeqOk .pPwr where
  used := hq
  place := placeOk_of_not_transfer s _ hq rfl
  delay := nofun
  line := hr
  prepare _ := hl
  unprepare := nofun

theorem seqOk_uPwr (s : State) (hq : seqOf s.seq = some .uPwr) (hr : s.rstAssert = false) (hl : s.lc ≠ .enabled) :
    s.SeqOk .uPwr where
  used := hq
  place := placeOk_of_not_transfer s _ hq rfl
  delay := nofun
  line := hr
  prepare := nofun
  unprepare _ := hl

/-- A delay is started with its full count, which the 8-bit counter holds (R230). -/
theorem seqOk_startDelay (s : State) (n : Nat) (x : SeqState) (hx : x.isDelay = true) (hn : n + 1 = x.ticks s.cfg)
    (h256 : n + 1 < 256) (hr : s.rstAssert = decide (x = .pDlyRst)) (hl : s.lc = .unprepared) :
    (startDelay n x s).SeqOk x where
  used := seqOf_code x
  place := placeOk_of_not_transfer _ x (seqOf_code x) (SeqState.not_isTransfer_of_isDelay hx)
  delay _ := by
    simp only [startDelay_delayCnt, startDelay_cfg, BitVec.toNat_ofNat, Nat.mod_eq_of_lt h256]
    omega
  line := hr
  prepare _ := hl
  unprepare hu := by simp [hu, SeqState.isDelay] at hx

/-- A word is issued in its place (R102). -/
theorem seqOk_transfer (s : State) (q : SeqState) (hq : seqOf s.seq = some q) (ht : q.isTransfer = true)
    (hp : s.placeOk = true) (hr : s.rstAssert = false) (hl : s.lc = .unprepared) : s.SeqOk q where
  used := hq
  place := hp
  delay hd := by simp [SeqState.not_isTransfer_of_isDelay hd] at ht
  line := by
    have : q ≠ .pDlyRst := by rintro rfl; simp [SeqState.isTransfer] at ht
    simp [hr, this]
  prepare _ := hl
  unprepare hu := by simp [hu, SeqState.isTransfer] at ht

section
variable (s : State) (hv : s.cfg.valid = true) (hrom : s.rom = romOf s.cfg) (hr : s.rstAssert = false)
  (hl : s.lc = .unprepared)
include hv hrom hr hl

/-- `begin_step` where an entry stands (R121). -/
theorem seqOk_beginStepWith (he : EntryAt s.cfg s.stepIdx s.romPtr) (c len : Byte)
    (hc : s.scriptRead s.romPtr.toNat = some c) (hlen : s.scriptRead (s.romPtr.toNat + 1) = some len) :
    (beginStepWith c len s).SeqOk .xCmd :=
  seqOk_transfer _ _ rfl rfl (beginStepWith_place s hv hrom he.1 he.2 c len hc hlen) hr hl

omit hv in
/-- A Data word is issued where a data byte stands (R122, R124). -/
theorem seqOk_issueData (hd : DataAt s.cfg s.stepIdx s.byteIdx s.curLen s.romPtr) (b : Byte)
    (hb : s.scriptRead s.romPtr.toNat = some b) : (issueWord .data b .xData s).SeqOk .xData := by
  obtain ⟨st, hst, hp, hk, hlen⟩ := hd
  exact seqOk_transfer _ _ rfl rfl (issueData_place s hrom st hst hp hk hlen b hb) hr hl

end

/-- Every move keeps what the invariant says of the sequencer. -/
theorem Move.seqOk {s t : State} (hi : s.Inv) (m : Move s t) : ∃ q, t.SeqOk q := by
  have hv := hi.cfgValid
  have hrst := (s.cfg.valid_ranges hv).2.1
  cases m with
  | waits q hq => exact ⟨q, (hi.seqOk hq).clearOuts⟩
  | powerIgnored _ rest q _ hq | busOkIgnored rest q _ hq | tickIgnored rest q _ hq =>
    exact ⟨q, (hi.seqOk hq).taking rest⟩
  | busErrIgnored _ rest q _ hq => exact ⟨q, ((hi.seqOk hq).taking rest).forgetController⟩
  | ticks rest q _ hq hd h0 => exact ⟨q, ((hi.seqOk hq).taking rest).countDown hd h0⟩
  | reset => exact ⟨_, seqOk_idle _ rfl rfl⟩
  | enabled _ _ _ hq | disabled _ _ _ hq | modes _ _ _ hq | refusedSeq _ _ _ hq | refusedOp _ _ _ hq
  | powerOnFailed _ _ _ hq | poweredOff _ _ hq | powerOffFailed _ _ _ hq | ready _ _ hq =>
    exact ⟨_, seqOk_idle _ rfl (hi.seqOk hq).line⟩
  | busFailed _ _ _ hq =>
    have hline : s.rstAssert = false := by rcases hq with hq | hq | hq <;> exact (hi.seqOk hq).line
    exact ⟨_, seqOk_idle _ rfl hline⟩
  | powerOn _ _ _ hq hl => exact ⟨_, seqOk_pPwr _ rfl (hi.seqOk hq).line hl⟩
  | powerOff _ _ _ hq hl => exact ⟨_, seqOk_uPwr _ rfl (hi.seqOk hq).line hl⟩
  | poweredOn _ _ hq | sleepOutSent _ _ hq | doneAfterCommand _ _ hq | doneAfterData _ _ hq =>
    have h := hi.seqOk hq
    exact ⟨_, seqOk_startDelay _ _ _ rfl rfl (by decide) h.line (h.prepare rfl)⟩
  | resetOn _ _ hq =>
    exact ⟨_, seqOk_startDelay _ s.cfg.tRstMs .pDlyRst rfl rfl (by omega) rfl
      ((hi.seqOk hq).prepare rfl)⟩
  | resetOff _ _ hq =>
    exact ⟨_, seqOk_startDelay _ tPostRstMs .pDlyPost rfl rfl (by decide) rfl
      ((hi.seqOk hq).prepare rfl)⟩
  | sleepOut _ _ hq =>
    have h := hi.seqOk hq
    exact ⟨.xSlp, seqOk_transfer _ _ rfl rfl (by simp [State.placeOk]) h.line (h.prepare rfl)⟩
  | scriptStarts c len rest _ hq _ hc hlen =>
    have h := hi.seqOk hq
    exact ⟨_, seqOk_beginStepWith { s.taking rest with delayCnt := 0#8, stepIdx := 0#8, romPtr := 0#16 } hv hi.romHolds
      h.line (h.prepare rfl) (entryAt_zero hv) c len hc hlen⟩
  | stepAfterCommand c len rest _ hq h0 hn hc hlen =>
    have h := hi.seqOk hq
    exact ⟨_, seqOk_beginStepWith { s.taking rest with stepIdx := s.stepIdx + 1#8 } hv hi.romHolds h.line
      (h.prepare rfl) (hi.entryAt_of_xCmd hq h0 hn) c len hc hlen⟩
  | stepAfterData c len rest _ hq h0 hn hc hlen =>
    have h := hi.seqOk hq
    exact ⟨_, seqOk_beginStepWith { (s.taking rest).advanceByte with stepIdx := s.stepIdx + 1#8 } hv hi.romHolds h.line
      (h.prepare rfl) ((hi.dataAt_of_xData hq).nextEntry hv h0 hn) c len hc hlen⟩
  | firstData b rest _ hq h0 hb =>
    have h := hi.seqOk hq
    exact ⟨_, seqOk_issueData (s.taking rest) hi.romHolds h.line (h.prepare rfl) (hi.dataAt_of_xCmd hq h0) b hb⟩
  | nextData b rest _ hq h0 hb =>
    have h := hi.seqOk hq
    exact ⟨_, seqOk_issueData (s.taking rest).advanceByte hi.romHolds h.line (h.prepare rfl)
      ((hi.dataAt_of_xData hq).next hv h0) b hb⟩

/-! ### The half that speaks of the inputs, the outputs and the lifecycle -/

theorem Move.inboxFits {s t : State} (m : Move s t) (w : Nat) (h : s.inbox.all (Event.fits w) = true) :
    t.inbox.all (Event.fits w) = true := by
  rcases m.inbox_eq with heq | ⟨e, rest, hs, heq⟩
  · rw [heq]
    exact h
  · rw [heq]
    exact (Sees.all s e rest hs _ h).2

/-- What a step emits is of the forms of R75, and `last_status` is a code of R75. -/
theorem Emits.fits {s t : State} (he : Emits s t) (w : Nat) (h : s.inbox.all (Event.fits w) = true)
    (hs : s.lastStatus.toNat ≤ 4) : t.outs.all (OutEvent.fits w) = true ∧ t.lastStatus.toNat ≤ 4 := by
  have hfit : ∀ e rest, s.Sees e rest → e.fits w = true := fun e rest hsee => (Sees.all s e rest hsee _ h).1
  cases he with
  | nothing ho hst | power _ ho hst | resetLine ho hst | transfer ho hst =>
    rw [ho, hst]
    exact ⟨rfl, hs⟩
  | completion ho hst =>
    rw [ho, hst]
    simp [OutEvent.fits, Status.code]
  | answer st n ho hst hn =>
    rw [ho, hst]
    rcases hn with ⟨rfl, rfl⟩ | ⟨rfl, rfl⟩ | ⟨rfl, rfl⟩ <;> simp [OutEvent.fits, Status.code]
  | failure st e rest ho hst hsee =>
    rw [ho, hst]
    rcases hsee with ⟨rfl, hsee⟩ | ⟨rfl, hsee⟩ <;>
      simpa [OutEvent.fits, Status.code, Event.fits, Reply.fits] using hfit _ _ hsee

theorem Move.outsFit {s t : State} (m : Move s t) (w : Nat) (h : s.inbox.all (Event.fits w) = true)
    (hs : s.lastStatus.toNat ≤ 4) : t.outs.all (OutEvent.fits w) = true ∧ t.lastStatus.toNat ≤ 4 := by
  rcases m.emits_or_reset with he | ⟨rest, -, rfl⟩
  · exact he.fits w h hs
  · simp

theorem Move.ctlOk {s t : State} (m : Move s t) (h : s.ctlKnown = true → s.lc ≠ .unprepared) (ht : t.ctlKnown = true) :
    t.lc ≠ .unprepared := by
  rcases m.of_ctlKnown ht with ⟨hs, hl | hl | hl⟩ | ⟨-, hl, -⟩ <;> rw [hl]
  · exact h hs
  all_goals decide

end Sys2Proof.Machine
end

section
/-! The invariant is kept, and a state that meets it does not stop. -/

namespace Sys2Proof.Machine

theorem Move.inv {s t : State} (hi : s.Inv) (m : Move s t) : t.Inv := by
  obtain ⟨q, hq⟩ := m.seqOk hi
  obtain ⟨houts, hstatus⟩ := m.outsFit s.cfg.errW hi.inboxFits hi.statusOk
  have hcfg := m.cfg_eq
  constructor
  case cfgValid => rw [hcfg]; exact hi.cfgValid
  case romHolds => rw [m.rom_eq, hcfg]; exact hi.romHolds
  case seqUsed => rw [hq.used]; rfl
  case placeOk => exact hq.place
  case delayOk => exact (delayOk_iff t q hq.used).mpr hq.delay
  case resetLineOk => exact (resetLineOk_iff t q hq.used).mpr hq.line
  case lifecycleOk => exact (lifecycleOk_iff t q hq.used).mpr ⟨hq.prepare, hq.unprepare⟩
  case statusOk => exact hstatus
  case ctlOk => exact m.ctlOk hi.ctlOk
  case inboxFits => rw [hcfg]; exact m.inboxFits _ hi.inboxFits
  case outsFit => rw [hcfg]; exact houts
  case traceFits => rw [hcfg, m.trace_eq, List.all_append, hi.traceFits, houts]; rfl

/-- Settles O52: by the moves of `step_move`; the sequencer's half is `Move.seqOk`, the rest follows from what a step emits
and keeps. -/
theorem stepKeepsTheInvariant : Obligations.StepKeepsTheInvariant :=
  fun s t hi h => (step_move s t h).inv hi

/-! ### No step stops (R22, R52) -/

/-- Where a header is read, `next_step` answers a next state. -/
theorem nextStep_answers (s : State) (q : SeqState) (hq : seqOf s.seq = some q)
    (h : (s.stepIdx + 1#8).toNat ≠ s.cfg.nSteps →
      ∃ c len, s.scriptRead s.romPtr.toNat = some c ∧ s.scriptRead (s.romPtr.toNat + 1) = some len) :
    ∃ t, nextStep s = .next t := by
  by_cases hn : (s.stepIdx + 1#8).toNat = s.cfg.nSteps
  · exact ⟨_, nextStep_of_last s hn⟩
  · obtain ⟨c, len, hc, hl⟩ := h hn
    rw [nextStep_of_more s hn]
    exact ⟨_, beginStep_of_header { s with stepIdx := s.stepIdx + 1#8 } c len q hq hc hl⟩

theorem countDown_answers (s : State) (f : State → Result)
    (h : ∃ t, f { s with delayCnt := 0#8 } = .next t) : ∃ t, countDown s f = .next t := by
  unfold countDown
  split
  · next h0 => rw [h0]; exact h
  · exact ⟨_, rfl⟩

section
variable {s : State} (hi : s.Inv)
include hi

theorem State.Inv.scriptRead_entry {i : Byte} {p : RomAddr} (h : EntryAt s.cfg i p) :
    ∃ c len, s.scriptRead p.toNat = some c ∧ s.scriptRead (p.toNat + 1) = some len := by
  rw [State.scriptRead, State.scriptRead, hi.romHolds]
  exact h.read

theorem State.Inv.scriptRead_data {i k len : Byte} {p : RomAddr} (h : DataAt s.cfg i k len p) :
    ∃ b, s.scriptRead p.toNat = some b := by
  rw [State.scriptRead, hi.romHolds]
  exact h.read

theorem State.Inv.commandSent_answers (hq : seqOf s.seq = some .xCmd) : ∃ t, commandSent s = .next t := by
  unfold commandSent
  split
  · next h0 =>
    exact nextStep_answers s _ hq fun hn => hi.scriptRead_entry (hi.entryAt_of_xCmd hq h0 hn)
  · next h0 =>
    obtain ⟨b, hb⟩ := hi.scriptRead_data (hi.dataAt_of_xCmd hq h0)
    exact ⟨_, sendDataByte_of_read s b _ hq hb⟩

theorem State.Inv.dataSent_answers (hq : seqOf s.seq = some .xData) : ∃ t, dataSent s = .next t := by
  have hd := hi.dataAt_of_xData hq
  unfold dataSent
  split
  · next h0 =>
    exact nextStep_answers s.advanceByte _ hq fun hn => hi.scriptRead_entry (hd.nextEntry hi.cfgValid h0 hn)
  · next h0 =>
    obtain ⟨b, hb⟩ := hi.scriptRead_data (hd.next hi.cfgValid h0)
    exact ⟨_, sendDataByte_of_read s.advanceByte b _ hq hb⟩

theorem State.Inv.beginScript_answers (q : SeqState) (hq : seqOf s.seq = some q) (n : Byte) :
    ∃ t, beginScript { s with delayCnt := n } = .next t := by
  obtain ⟨c, len, hc, hl⟩ := hi.scriptRead_entry (entryAt_zero hi.cfgValid)
  exact ⟨_, beginStep_of_header { s with delayCnt := n, stepIdx := 0#8, romPtr := 0#16 } c len q hq hc hl⟩

/-- The invariant still holds when the step's input is taken. -/
theorem State.Inv.taking (e : Event) (rest : List Event) (hs : s.Sees e rest) : (s.taking rest).Inv :=
  ⟨hi.cfgValid, hi.romHolds, hi.seqUsed, hi.placeOk, hi.delayOk, hi.resetLineOk, hi.lifecycleOk, hi.statusOk, hi.ctlOk,
    (Sees.all s e rest hs _ hi.inboxFits).2, rfl, hi.traceFits⟩

theorem State.Inv.onPwrDone_answers (r : Reply) : ∃ t, onPwrDone r s = .next t := by
  obtain ⟨q, hq⟩ := Option.isSome_iff_exists.mp hi.seqUsed
  unfold onPwrDone
  rw [withSeq_of_used s q _ hq]
  cases q <;> cases r <;> exact ⟨_, rfl⟩

theorem State.Inv.onBusDone_answers (r : Reply) : ∃ t, onBusDone r s = .next t := by
  obtain ⟨q, hq⟩ := Option.isSome_iff_exists.mp hi.seqUsed
  cases r with
  | ok =>
    rw [onBusDone, onBusOk, withSeq_of_used s q _ hq]
    cases q with
    | xCmd => exact hi.commandSent_answers hq
    | xData => exact hi.dataSent_answers hq
    | _ => exact ⟨_, rfl⟩
  | err e =>
    rw [onBusDone, onBusErr, withSeq_of_used s q _ hq]
    cases q <;> exact ⟨_, rfl⟩

theorem State.Inv.onTick_answers : ∃ t, onTick s = .next t := by
  obtain ⟨q, hq⟩ := Option.isSome_iff_exists.mp hi.seqUsed
  rw [onTick, withSeq_of_used s q _ hq]
  cases q with
  | pDlyPwr | pDlyRst | xDlyFin => exact countDown_answers s _ ⟨_, rfl⟩
  | pDlyPost => exact countDown_answers s _ ⟨_, execBwCmd_of_used s.cfg.slpoutCmd { s with delayCnt := 0#8 } _ hq⟩
  | xDlySlp => exact countDown_answers s _ (hi.beginScript_answers _ hq 0#8)
  | _ => exact ⟨_, rfl⟩

end

/-- Settles O53: with no input the block waits, and each handler answers, since every entry and every data byte the
invariant leads to is mapped. -/
theorem invariantStatesNeverStop : Obligations.InvariantStatesNeverStop := by
  intro s hi
  obtain ⟨q, hq⟩ := Option.isSome_iff_exists.mp hi.seqUsed
  cases htake : takeEnabled s.holds s.inbox with
  | none =>
    refine ⟨s.clearOuts, ?_⟩
    rw [step, stepOnce, htake]
    exact withSeq_of_used s q _ hq
  | some taken =>
    obtain ⟨e, rest⟩ := taken
    have hs : s.Sees e rest := sees_of_take s e rest htake (.inl ⟨q, hq⟩)
    have hi' := hi.taking e rest hs
    rw [step_of_sees s e rest hs]
    cases e with
    | req op => exact ⟨_, exec_hostCode_idle op (s.taking rest) (Sees.idle s op rest hs)⟩
    | pwrDone r => exact hi'.onPwrDone_answers r
    | busDone r => exact hi'.onBusDone_answers r
    | tick => exact hi'.onTick_answers
    | blockReset => exact ⟨_, rfl⟩

end Sys2Proof.Machine
end

section
/-! The registers, the ports and the requests (spec 10_state.md R21 to R42): what the host and the collaborators see, who
writes each register, and which requests wait. -/

namespace Sys2Proof.Machine

/-! ### STATUS and the ports (R28, R30, R35 to R39) -/

/-- The fields of a word put together as R28 says. -/
theorem statusFields (rst busy : Bool) (last : StatusCode) (lc : BitVec 2) :
    let w : Half := 0#9 ++ BitVec.ofBool rst ++ last ++ BitVec.ofBool busy ++ lc
    w.extractLsb' 0 2 = lc ∧ w.getLsbD 2 = busy ∧ w.extractLsb' 3 3 = last ∧ w.getLsbD 6 = rst
      ∧ w.extractLsb' 7 9 = 0#9 := by
  revert rst busy last lc
  decide

theorem resetWith_status (c : Config) : (State.resetWith c).status = 0x0000#16 := by
  simp [State.status, State.busyBit, State.resetWith, SeqState.code, Lifecycle.code]

theorem rspValid_iff (s : State) : s.rspValid = true ↔ ∃ st e n, OutEvent.respond st e n ∈ s.outs := by
  rw [State.rspValid, State.response, List.findSome?_isSome_iff]
  constructor
  · rintro ⟨o, ho, hr⟩
    cases o with
    | respond st e n => exact ⟨st, e, n, ho⟩
    | busXfer _ | pwrReq _ | rstSet _ => simp [OutEvent.response] at hr
  · rintro ⟨st, e, n, ho⟩
    exact ⟨_, ho, rfl⟩

theorem reqReady_iff (s : State) : s.reqReady = true ↔ s.seq = 0x0#4 := beq_iff_eq

theorem busValid_iff (s : State) : s.busValid = true ↔ s.seq = 0x5#4 ∨ s.seq = 0x7#4 ∨ s.seq = 0x8#4 := by
  simp [State.busValid, SeqState.code, or_assoc]

theorem pwrValid_iff (s : State) : s.pwrValid = true ↔ s.seq = 0x1#4 ∨ s.seq = 0xA#4 := by
  simp [State.pwrValid, SeqState.code]

/-- Settles O12: STATUS is the fields of R28 put together, and each port output is read off `seq`, `rst_assert` or the
outputs. -/
theorem statusAndPortOutputs : Obligations.StatusAndPortOutputs := by
  refine ⟨fun s => ?_, resetWith_status, fun s => ⟨reqReady_iff s, busValid_iff s, pwrValid_iff s, beq_iff_eq, rfl,
    rspValid_iff s⟩⟩
  obtain ⟨hlc, hbusy, hlast, hrst, hzero⟩ := statusFields s.rstAssert s.busyBit s.lastStatus s.lc.code
  refine ⟨hlc.trans ?_, ?_, hlast, hrst, hzero⟩
  · cases s.lc <;> rfl
  · rw [State.status, hbusy]
    simp [State.busyBit, SeqState.code]

/-- Settles O13: the registers are those of R30 by definition, and no move changes the configuration they depend on. -/
theorem modeRegisterValues : Obligations.ModeRegisterValues :=
  ⟨fun _ => rfl, fun s t a h => by rw [State.modeData, State.modeData, (step_move s t h).cfg_eq]⟩

/-! ### Who writes each register (R21, R25 to R27, R33) -/

/-- Settles O47: each way of emitting changes at most the register its output carries. -/
theorem outputRegistersChangeWithTheirOutputs : Obligations.OutputRegistersChangeWithTheirOutputs := by
  intro s t h hn
  cases (step_move s t h).emits hn with
  | nothing _ hs hr hw | power _ _ hs hr hw => exact ⟨absurd hs, absurd hr, absurd hw⟩
  | resetLine ho hs hw => exact ⟨absurd hs, fun _ => ho, absurd hw⟩
  | transfer ho hs hr => exact ⟨absurd hs, absurd hr, fun _ => ho⟩
  | completion ho hs _ hr hw => exact ⟨fun _ => ⟨0, 0#2, by rw [ho, hs]⟩, absurd hr, absurd hw⟩
  | answer st n ho hs _ hr hw => exact ⟨fun _ => ⟨0, n, by rw [ho, hs]⟩, absurd hr, absurd hw⟩
  | failure st e _ ho hs _ hr hw => exact ⟨fun _ => ⟨e, 0#2, by rw [ho, hs]⟩, absurd hr, absurd hw⟩

/-- Settles O48: every way of emitting but a completion keeps `lc`. -/
theorem lifecycleChangesOnlyOnSuccess : Obligations.LifecycleChangesOnlyOnSuccess := by
  intro s t h hn hne
  cases (step_move s t h).emits hn with
  | completion ho _ hq => exact ⟨ho, hq⟩
  | nothing _ _ _ _ hl | power _ _ _ _ _ hl | resetLine _ _ _ hl | transfer _ _ _ hl | answer _ _ _ _ _ _ _ hl
  | failure _ _ _ _ _ _ _ _ hl => exact absurd hl hne

/-- Settles O50: `Move.of_ctlKnown` for the first clause; a failed transfer and an answered power-disable make the ghost
false in each of the cases of their handlers. -/
theorem controllerKnownOnlyAfterPrepare : Obligations.ControllerKnownOnlyAfterPrepare := by
  refine ⟨?_, ?_, ?_⟩
  · intro s t h ht hs
    rcases (step_move s t h).of_ctlKnown ht with ⟨hk, -⟩ | ⟨hq, hl, ho⟩
    · rw [hs] at hk
      exact absurd hk (by decide)
    · exact ⟨(seqOf_eq_some_iff _ .xDlyFin).mp hq, hl, ho⟩
  · intro s t e rest hsee h
    rw [step_of_sees s _ rest hsee] at h
    rcases onBusErr_next e (s.taking rest) t h with ⟨-, rfl⟩ | ⟨-, rfl⟩ <;> rfl
  · intro s t r rest hseq hsee h
    rw [step_of_sees s _ rest hsee] at h
    have hq : seqOf (s.taking rest).seq = some .uPwr := (seqOf_eq_some_iff _ .uPwr).mpr hseq
    rcases onPwrDone_next r (s.taking rest) t h with ⟨hp, -⟩ | ⟨hp, -⟩ | ⟨-, -, rfl⟩ | ⟨-, e, -, rfl⟩ | ⟨⟨q, hp, -, hn⟩, -⟩
    · exact absurd (hq.symm.trans hp) (by decide)
    · exact absurd (hq.symm.trans hp) (by decide)
    · rfl
    · rfl
    · exact absurd (Option.some.inj (hp.symm.trans hq)) hn

/-! ### Requests (R35, R42) -/

/-- Every host code is a request: what differs is what accepting it does. -/
theorem exec_hostCode_request (op : HostCode) :
    ∃ accept : State → State, ∀ s, exec (decodeHostCode op) s = request op accept s := by
  have hop : ∀ x : HostCode, x = 0b000#3 ∨ x = 0b001#3 ∨ x = 0b010#3 ∨ x = 0b011#3 ∨ x = 0b100#3 ∨ x = 0b101#3
      ∨ x = 0b110#3 ∨ x = 0b111#3 := by decide
  rcases hop op with rfl | rfl | rfl | rfl | rfl | rfl | rfl | rfl <;> exact ⟨_, fun _ => rfl⟩

/-- Settles O20: a request in a used state other than `IDLE` is held (`request_of_busy`). -/
theorem hostOperationsWaitWhileBusy : Obligations.HostOperationsWaitWhileBusy := by
  intro s op hne hused
  obtain ⟨q, hq⟩ := (seqOf_isSome_iff s.seq).mpr hused
  obtain ⟨accept, h⟩ := exec_hostCode_request op
  rw [h s, request_of_busy op accept s q hq (seqOf_ne_idle hq hne)]
  rfl

/-- While the block is busy, what a step takes is no request, and the requests stay in their order. -/
theorem Sees.filter_isRequest {s : State} {e : Event} {rest : List Event} (h : s.Sees e rest) (hne : s.seq ≠ 0x0#4) :
    rest.filter Event.isRequest = s.inbox.filter Event.isRequest := by
  have hidle : ¬ ∃ op, e = .req op := by
    rintro ⟨op, rfl⟩
    exact hne ((seqOf_eq_some_iff _ .idle).mp (Sees.idle s op rest h))
  have he : e.isRequest = false := by
    cases e with
    | req op => exact absurd ⟨op, rfl⟩ hidle
    | pwrDone _ | busDone _ | tick | blockReset => rfl
  obtain ⟨held, after, hin, hrest, -⟩ := h
  simp [hin, hrest, he]

/-- A request at the front of an idle block's inputs is the one a step takes. -/
theorem sees_request_of_idle {s : State} {op : HostCode} {rest : List Event} (hq : s.seq = 0x0#4)
    (hin : s.inbox = .req op :: rest) : s.Sees (.req op) rest :=
  ⟨[], rest, hin, rfl, by simp, by simp, fun _ => (seqOf_eq_some_iff _ .idle).mpr hq⟩

theorem step_request_of_idle {s : State} {op : HostCode} {rest : List Event} (hq : s.seq = 0x0#4)
    (hin : s.inbox = .req op :: rest) : step s = exec (decodeHostCode op) (s.taking rest) :=
  step_of_sees s _ rest (sees_request_of_idle hq hin)

/-- Settles O40: a busy block takes no request (`Sees.filter_isRequest`), and an idle one takes the request at the front,
whatever accepting it does. -/
theorem requestsAreHeldUntilIdle : Obligations.RequestsAreHeldUntilIdle := by
  refine ⟨reqReady_iff, ?_, ?_⟩
  · intro s t hne h
    rcases (step_move s t h).inbox_eq with heq | ⟨e, rest, hsee, heq⟩
    · rw [heq]
    · rw [heq, Sees.filter_isRequest hsee hne]
  · intro s op rest hseq hin
    have hidle : seqOf (s.taking rest).seq = some .idle := (seqOf_eq_some_iff _ .idle).mpr hseq
    have hx := exec_hostCode_idle op (s.taking rest) hidle
    refine ⟨_, (step_request_of_idle hseq hin).trans hx, ?_⟩
    rcases exec_hostCode_next op (s.taking rest) _ hidle hx with
      ⟨-, ht⟩ | ⟨-, ht⟩ | ⟨-, ht⟩ | ⟨-, ht⟩ | ht | ht | ht <;> rw [ht] <;> rfl

/-! ### Codes of `seq` that stand for no state (R22, R40) -/

theorem exec_of_unused (i : Instr) (s : State) (h : seqOf s.seq = none) : exec i s = .fault .badSeq := by
  cases i <;> exact withSeq_of_unused s _ h

/-- Any event but a block reset is a fault there (log 12, log 16). -/
theorem handle_of_unused (e : Event) (s : State) (h : seqOf s.seq = none) (he : e ≠ .blockReset) :
    handle e s = .fault .badSeq := by
  cases e with
  | req op => exact exec_of_unused _ s h
  | pwrDone r => exact withSeq_of_unused s _ h
  | busDone r => cases r <;> exact withSeq_of_unused s _ h
  | tick => exact withSeq_of_unused s _ h
  | blockReset => exact absurd rfl he

theorem step_of_unused (s : State) (h : seqOf s.seq = none) (hin : s.inbox.head? ≠ some .blockReset) :
    step s = .fault .badSeq := by
  have hholds : s.holds = false := by simp [State.holds, h]
  rw [step, stepOnce, hholds]
  cases hbox : s.inbox with
  | nil => exact withSeq_of_unused s _ h
  | cons e rest =>
    rw [takeEnabled_first false e rest (.inl rfl)]
    exact handle_of_unused e _ h fun he => hin (by rw [hbox, he]; rfl)

/-- Settles O43: outside 0x0 to 0xA everything but a block reset is guarded by `withSeq`, and every move leads to a used
state. -/
theorem badSeqFaults : Obligations.BadSeqFaults := by
  refine ⟨fun s hs => ?_, fun s t h => ?_⟩
  · have hnone := (seqOf_eq_none_iff s.seq).mpr hs
    exact ⟨fun i => exec_of_unused i s hnone, step_of_unused s hnone⟩
  · exact (seqOf_isSome_iff t.seq).mp (step_move s t h).seq_used

end Sys2Proof.Machine
end

section
/-! A step runs the decoded instruction (spec 10_state.md R40; 41_controller_driver.md R121, R122, R124, R126;
42_register_script.md R151, R153). -/

namespace Sys2Proof.Machine

/-- The encoder is undone by the decoder (R105). -/
theorem busDecode_busEncode (k : BusKind) (b : Byte) : busDecode (busEncode k b) = (k, b) := by
  have hdc : (busEncode k b).getLsbD 8 = k.dc.getLsbD 0 := BitVec.getLsbD_append
  rw [busDecode, hdc, busEncode, BitVec.extractLsb'_append_eq_right]
  cases k <;> rfl

theorem decodeBusWord_busEncode_command (b : Byte) : decodeBusWord (busEncode .command b) = .bwCmd b := by
  simp only [decodeBusWord, busDecode_busEncode]

theorem decodeBusWord_busEncode_data (b : Byte) : decodeBusWord (busEncode .data b) = .bwData b := by
  simp only [decodeBusWord, busDecode_busEncode]

/-! ### The entry in the ROM (R76, R121) -/

/-- Bytes that decode to an entry with nothing left over are its cmd, its len and its data. -/
theorem bytes_of_decodeEntry (c : Config) (bytes : List Byte) (i : Instr) (h : decodeEntry c bytes = .ok (i, [])) :
    ∃ cmd len data, bytes = cmd :: len :: data ∧ data.length = len.toNat := by
  match bytes, h with
  | cmd :: len :: data, h =>
    refine ⟨cmd, len, data, rfl, ?_⟩
    rw [decodeEntry] at h
    split at h
    · simp at h
    · simp only [Except.ok.injEq, Prod.mk.injEq, List.drop_eq_nil_iff] at h
      omega

theorem Memory.readN_cons (m : Memory) (a n : Nat) (b : Byte) (bs : List Byte) :
    m.readN a (n + 1) = some (b :: bs) ↔ m.read a = some b ∧ m.readN (a + 1) n = some bs := by
  simp only [Memory.readN]
  cases m.read a <;> cases m.readN (a + 1) n <;> simp

/-- `begin_step` where the bytes of an entry stand runs that entry. -/
theorem beginStep_of_decode (s : State) (i : Instr) (bytes : List Byte) (h : decode s.cfg .step bytes = .ok (i, []))
    (hr : s.rom.readN s.romPtr.toNat bytes.length = some bytes) : beginStep s = exec i s := by
  have hd : decodeEntry s.cfg bytes = .ok (i, []) := h
  obtain ⟨cmd, len, data, rfl, hlen⟩ := bytes_of_decodeEntry s.cfg bytes i hd
  obtain ⟨hcmd, hr⟩ := (Memory.readN_cons _ _ _ _ _).mp hr
  obtain ⟨hl, hdata⟩ := (Memory.readN_cons _ _ _ _ _).mp hr
  rw [hlen] at hdata
  have hfetch : s.fetchEntry = some i := by
    simp only [State.fetchEntry, State.scriptRead, hcmd, hl, hdata, hd]
  simp only [beginStep, hfetch]

/-! ### The places where a step begins an entry or issues a word -/

section
variable {s : State} {rest : List Event}

/-- The last Tick of the post-reset settle (R186, R231). -/
theorem step_runBringup (hseq : s.seq = 0x4#4) (hcnt : s.delayCnt = 1#8) (hs : s.Sees .tick rest) :
    step s = runBringup { s.taking rest with delayCnt := 0#8 } := by
  have hq : seqOf (s.taking rest).seq = some .pDlyPost := (seqOf_eq_some_iff _ .pDlyPost).mpr hseq
  rw [step_of_sees s _ rest hs]
  exact (withSeq_of_used _ _ _ hq).trans (countDown_last (s.taking rest) _ hcnt)

/-- The last Tick of the sleep-out settle (R153, R231). -/
theorem step_beginScript (hseq : s.seq = 0x6#4) (hcnt : s.delayCnt = 1#8) (hs : s.Sees .tick rest) :
    step s = beginScript { s.taking rest with delayCnt := 0#8 } := by
  have hq : seqOf (s.taking rest).seq = some .xDlySlp := (seqOf_eq_some_iff _ .xDlySlp).mpr hseq
  rw [step_of_sees s _ rest hs]
  exact (withSeq_of_used _ _ _ hq).trans (countDown_last (s.taking rest) _ hcnt)

/-- A transferred Command word (R122). -/
theorem step_commandSent (hseq : s.seq = 0x7#4) (hs : s.Sees (.busDone .ok) rest) :
    step s = commandSent (s.taking rest) := by
  have hq : seqOf (s.taking rest).seq = some .xCmd := (seqOf_eq_some_iff _ .xCmd).mpr hseq
  rw [step_of_sees s _ rest hs]
  exact withSeq_of_used _ _ _ hq

/-- A transferred Data word (R124). -/
theorem step_dataSent (hseq : s.seq = 0x8#4) (hs : s.Sees (.busDone .ok) rest) :
    step s = dataSent (s.taking rest) := by
  have hq : seqOf (s.taking rest).seq = some .xData := (seqOf_eq_some_iff _ .xData).mpr hseq
  rw [step_of_sees s _ rest hs]
  exact withSeq_of_used _ _ _ hq

end

theorem commandSent_of_noData (s : State) (h : s.curLen = 0#8) : commandSent s = nextStep s := if_pos h

theorem commandSent_of_data (s : State) (h : s.curLen ≠ 0#8) : commandSent s = sendDataByte s := if_neg h

theorem dataSent_of_last (s : State) (h : s.byteIdx + 1#8 = s.curLen) : dataSent s = nextStep s.advanceByte := if_pos h

theorem dataSent_of_more (s : State) (h : s.byteIdx + 1#8 ≠ s.curLen) : dataSent s = sendDataByte s.advanceByte :=
  if_neg h

theorem sendDataByte_eq_exec (s : State) (b : Byte) (h : s.rom.read s.romPtr.toNat = some b) :
    sendDataByte s = exec (decodeBusWord (0b1#1 ++ b)) s := by
  rw [show decodeBusWord (0b1#1 ++ b) = .bwData b from decodeBusWord_busEncode_data b]
  simp only [sendDataByte, State.scriptRead, h]

/-- Settles O22: at each place the step is `begin_step` of the entry's bytes (`beginStep_of_decode`) or the issue of the
word's byte. -/
theorem stepRunsTheDecodedInstruction : Obligations.StepRunsTheDecodedInstruction := by
  refine ⟨fun s op rest => step_request_of_idle, ?_, ?_⟩
  · intro s rest i bytes hd
    refine ⟨?_, ?_, ?_⟩
    · intro hseq hcnt hs hr
      rw [step_beginScript hseq hcnt hs]
      exact beginStep_of_decode { s.taking rest with delayCnt := 0#8, stepIdx := 0#8, romPtr := 0#16 } i bytes hd hr
    · intro hseq h0 hs hn hr
      rw [step_commandSent hseq hs, commandSent_of_noData (s.taking rest) h0, nextStep_of_more (s.taking rest) hn]
      exact beginStep_of_decode { s.taking rest with stepIdx := s.stepIdx + 1#8 } i bytes hd hr
    · intro hseq h0 hs hn hr
      rw [step_dataSent hseq hs, dataSent_of_last (s.taking rest) h0, nextStep_of_more (s.taking rest).advanceByte hn]
      exact beginStep_of_decode { (s.taking rest).advanceByte with stepIdx := s.stepIdx + 1#8 } i bytes hd hr
  · intro s rest b
    refine ⟨?_, ?_, ?_⟩
    · intro hseq hcnt hs
      rw [step_runBringup hseq hcnt hs,
        show decodeBusWord (0b0#1 ++ s.cfg.slpoutCmd) = _ from decodeBusWord_busEncode_command s.cfg.slpoutCmd]
      rfl
    · intro hseq h0 hs hb
      rw [step_commandSent hseq hs, commandSent_of_data (s.taking rest) h0]
      exact sendDataByte_eq_exec (s.taking rest) b hb
    · intro hseq h0 hs hb
      rw [step_dataSent hseq hs, dataSent_of_more (s.taking rest) h0]
      exact sendDataByte_eq_exec (s.taking rest).advanceByte b hb

end Sys2Proof.Machine
end

section
/-! SUPPORT. Which events act in which state (spec 10_state.md R40), by the port each comes through, and what a run over a
cycle's events does (60_exceptions.md R227). -/

namespace Sys2Proof.Machine

/-! ### An event acts where its port is active -/

/-- The states in which a power request is outstanding (R38). -/
def SeqState.isPower : SeqState → Bool
  | .pPwr | .uPwr => true
  | .idle | .pDlyPwr | .pDlyRst | .pDlyPost | .xSlp | .xDlySlp | .xCmd | .xData | .xDlyFin => false

theorem actsOn_req (q : SeqState) (op : HostCode) : q.actsOn (.req op) = decide (q = .idle) := by cases q <;> rfl

theorem actsOn_pwrDone (q : SeqState) (r : Reply) : q.actsOn (.pwrDone r) = q.isPower := by cases q <;> rfl

theorem actsOn_busDone (q : SeqState) (r : Reply) : q.actsOn (.busDone r) = q.isTransfer := by cases q <;> rfl

theorem actsOn_tick (q : SeqState) : q.actsOn .tick = q.isDelay := by cases q <;> rfl

theorem actsOn_blockReset (q : SeqState) : q.actsOn .blockReset = true := by cases q <;> rfl

section
variable {s : State} {q : SeqState} (hq : seqOf s.seq = some q)
include hq

theorem reqReady_of_used : s.reqReady = decide (q = .idle) := by
  rw [State.reqReady, (seqOf_eq_some_iff _ q).mp hq]
  cases q <;> rfl

theorem pwrValid_of_used : s.pwrValid = q.isPower := by
  rw [State.pwrValid, (seqOf_eq_some_iff _ q).mp hq]
  cases q <;> rfl

theorem busValid_of_used : s.busValid = q.isTransfer := by
  rw [State.busValid, (seqOf_eq_some_iff _ q).mp hq]
  cases q <;> rfl

end

/-- A Tick acts in a state other than these six (R40). -/
theorem isDelay_of_seq {s : State} {q : SeqState} (hq : seqOf s.seq = some q)
    (h : s.seq = 0x0#4 ∨ s.seq = 0x1#4 ∨ s.seq = 0x5#4 ∨ s.seq = 0x7#4 ∨ s.seq = 0x8#4 ∨ s.seq = 0xA#4) :
    q.isDelay = false := by
  rcases h with h | h | h | h | h | h <;> rw [h] at hq <;> obtain rfl := Option.some.inj hq <;> rfl

/-! ### The events of a cycle -/

theorem length_filter_toList_le {o : Option Event} {p : Event → Bool} {b : Bool} (h : ∀ e ∈ o, p e = b) :
    (o.toList.filter p).length ≤ b.toNat := by
  cases o with
  | none => simp
  | some e => cases b <;> simp [h e rfl]

theorem any_toList_eq_false {o : Option Event} {p : Event → Bool} (h : ∀ e ∈ o, p e = false) :
    o.toList.any p = false := by
  cases o with
  | none => rfl
  | some e => simp [h e rfl]

section
variable {s : State} {q : SeqState} (hq : seqOf s.seq = some q)
include hq

/-- In each state one port's events act, so at most one event of a cycle does (R227 c). -/
theorem length_filter_acts_le_one (c : PortCycle) : ((portEvents s c).filter s.acts).length ≤ 1 := by
  unfold portEvents
  split
  · exact List.length_filter_le _ _
  · have htick : ∀ e ∈ tickPortEvent c.tickMs, s.acts e = q.isDelay := by
      simp [tickPortEvent, acts_of_used s q hq, actsOn_tick]
    have hpwr : ∀ e ∈ pwrPortEvent c.pwrDone c.pwrFail c.pwrErr, s.acts e = q.isPower := by
      simp [pwrPortEvent, acts_of_used s q hq, actsOn_pwrDone]
    have hbus : ∀ e ∈ busPortEvent c.busDone c.busFail c.busErr, s.acts e = q.isTransfer := by
      simp [busPortEvent, acts_of_used s q hq, actsOn_busDone]
    have hreq : ∀ e ∈ reqPortEvent s c.reqValid c.reqOp, s.acts e = decide (q = .idle) := by
      simp [reqPortEvent, acts_of_used s q hq, actsOn_req]
    have hone : q.isDelay.toNat + q.isPower.toNat + q.isTransfer.toNat + (decide (q = .idle)).toNat = 1 := by
      cases q <;> rfl
    have := length_filter_toList_le htick
    have := length_filter_toList_le hpwr
    have := length_filter_toList_le hbus
    have := length_filter_toList_le hreq
    simp only [List.filter_append, List.length_append]
    omega

/-- A request is an event of a cycle only where it acts (R35). -/
theorem acts_of_request (c : PortCycle) (op : HostCode) (h : Event.req op ∈ portEvents s c) : s.acts (.req op) = true := by
  have hready : s.reqReady = true := by
    unfold portEvents at h
    split at h
    · simp at h
    · simp [tickPortEvent, pwrPortEvent, busPortEvent, reqPortEvent] at h
      exact h.1.2
  rw [acts_of_used s q hq, actsOn_req, ← reqReady_of_used hq, hready]

end

/-- Among the events of a cycle there is a failed transfer where the bus port says so. -/
theorem any_isBusErr (s : State) (c : PortCycle) (hrst : c.rst = false) :
    (portEvents s c).any Event.isBusErr = (c.busDone && c.busFail) := by
  have htick : ∀ e ∈ tickPortEvent c.tickMs, e.isBusErr = false := by simp [tickPortEvent, Event.isBusErr]
  have hpwr : ∀ e ∈ pwrPortEvent c.pwrDone c.pwrFail c.pwrErr, e.isBusErr = false := by
    simp [pwrPortEvent, Event.isBusErr]
  have hreq : ∀ e ∈ reqPortEvent s c.reqValid c.reqOp, e.isBusErr = false := by simp [reqPortEvent, Event.isBusErr]
  have hbus : (busPortEvent c.busDone c.busFail c.busErr).toList.any Event.isBusErr = (c.busDone && c.busFail) := by
    cases c.busDone <;> cases c.busFail <;> rfl
  simp only [portEvents, hrst, Bool.false_eq_true, if_false, List.any_append, any_toList_eq_false htick,
    any_toList_eq_false hpwr, any_toList_eq_false hreq, hbus, Bool.false_or, Bool.or_false]

theorem any_filter_not_or_any_filter {α : Type} (l : List α) (p f : α → Bool) :
    ((l.filter fun x => !p x).any f || (l.filter p).any f) = l.any f := by
  rw [← List.any_append]
  exact ((List.perm_append_comm).trans (List.filter_append_perm p l)).any_eq

/-! ### Running a cycle -/

/-- A failed transfer and a block reset leave the ghost false, whatever it was (R33). -/
theorem handle_ctlKnown (s : State) (e : Event) (he : e.isBusErr = true ∨ e = .blockReset) (k : Bool) :
    handle e { s with ctlKnown := k } = handle e s := by
  cases e with
  | blockReset => rfl
  | busDone r =>
    cases r with
    | ok => simp [Event.isBusErr] at he
    | err x =>
      change onBusErr x _ = onBusErr x _
      unfold onBusErr withSeq
      cases seqOf s.seq with
      | none => rfl
      | some q => cases q <;> rfl
  | req _ | pwrDone _ | tick => simp [Event.isBusErr] at he

theorem step_ctlKnown (s : State) (e : Event) (rest : List Event) (he : e.isBusErr = true ∨ e = .blockReset)
    (k : Bool) : step { s with inbox := e :: rest, ctlKnown := k } = step { s with inbox := e :: rest } := by
  have hreq : ¬ ∃ op, e = .req op := by
    rintro ⟨op, rfl⟩
    simp [Event.isBusErr] at he
  rw [step_of_head _ e rest rfl hreq, step_of_head _ e rest rfl hreq]
  exact handle_ctlKnown (s.taking rest) e he k

theorem cycle_eq_run (s : State) (c : PortCycle) (es : List Event) (h : cycleEvents s c = es) (hne : es ≠ []) :
    cycle c s = Host.Core.run Sys2Proof.core es.length { s with inbox := es ++ s.inbox } := by
  unfold cycle
  rw [h]
  cases es with
  | nil => exact absurd rfl hne
  | cons e es => rfl

section
variable {s : State} {q : SeqState} (hq : seqOf s.seq = some q)
include hq

/-- Events that do not act and then one more: the step of that one, with the ghost as the others leave it. -/
theorem run_ignored_then (ignored : List Event) (e : Event)
    (hn : ∀ x ∈ ignored, s.acts x = false ∧ ¬ ∃ op, x = .req op) :
    Host.Core.run Sys2Proof.core (ignored.length + 1) { s with inbox := ignored ++ e :: s.inbox }
      = step { s with inbox := e :: s.inbox, ctlKnown := s.ctlKnown && !ignored.any Event.isBusErr } := by
  cases ignored with
  | nil => simpa using run_one { s with inbox := e :: s.inbox }
  | cons x xs => exact (run_of_not_acts x xs s q hq (e :: s.inbox) hn 1).trans (run_one _)

/-- The events of a cycle that do not act are no requests. -/
theorem ignored_of_mem (c : PortCycle) (x : Event) (hx : x ∈ portEvents s c) (ha : s.acts x = false) :
    s.acts x = false ∧ ¬ ∃ op, x = .req op := by
  refine ⟨ha, ?_⟩
  rintro ⟨op, rfl⟩
  exact absurd (acts_of_request hq c op hx) (by simp [ha])

theorem filter_acts_eq_singleton (c : PortCycle) (e : Event) (he : e ∈ portEvents s c) (ha : s.acts e = true) :
    (portEvents s c).filter s.acts = [e] := by
  have hmem : e ∈ (portEvents s c).filter s.acts := List.mem_filter.mpr ⟨he, ha⟩
  have hlen : ((portEvents s c).filter s.acts).length = 1 :=
    Nat.le_antisymm (length_filter_acts_le_one hq c) (List.length_pos_of_mem hmem)
  obtain ⟨x, hx⟩ := List.length_eq_one_iff.mp hlen
  rw [hx, List.mem_singleton] at hmem
  rw [hx, hmem]

/-- The cycle is the step of the event that acts (R227 c). -/
theorem cycle_of_acts (c : PortCycle) (e : Event) (he : e ∈ portEvents s c) (ha : s.acts e = true) :
    cycle c s = step { s with inbox := e :: s.inbox, ctlKnown := s.ctlKnown && !(c.busDone && c.busFail) } := by
  have hacting := filter_acts_eq_singleton hq c e he ha
  have hrun : cycle c s = step { s with
      inbox := e :: s.inbox
      ctlKnown := s.ctlKnown && !((portEvents s c).filter fun x => !s.acts x).any Event.isBusErr } := by
    rw [cycle_eq_run s c _ (by rw [cycleEvents, hacting]) (by simp), List.append_assoc, List.singleton_append,
      List.length_append, List.length_singleton]
    refine run_ignored_then hq _ e fun x hx => ?_
    obtain ⟨hmem, hx⟩ := List.mem_filter.mp hx
    exact ignored_of_mem hq c x hmem (by simpa using hx)
  rw [hrun]
  by_cases hforget : e.isBusErr = true ∨ e = .blockReset
  · exact (step_ctlKnown s e s.inbox hforget _).trans (step_ctlKnown s e s.inbox hforget _).symm
  · rw [not_or, Bool.not_eq_true] at hforget
    obtain ⟨herr, hreset⟩ := hforget
    have hrst : c.rst = false := by
      by_contra hr
      exact hreset (by simpa [portEvents, hr] using he)
    have hany := any_filter_not_or_any_filter (portEvents s c) s.acts Event.isBusErr
    rw [hacting, any_isBusErr s c hrst, List.any_cons, herr, List.any_nil, Bool.or_false, Bool.or_false] at hany
    rw [hany]

/-- Where no event of a cycle acts nothing happens but what the ghost sees (R33, R227 c). -/
theorem cycle_of_none_acts (c : PortCycle) (h : ∀ e ∈ portEvents s c, s.acts e = false) :
    cycle c s = .next { s with outs := [], ctlKnown := s.ctlKnown && !(c.busDone && c.busFail) } := by
  have hrst : c.rst = false := by
    by_contra hr
    have := h .blockReset (by simp [portEvents, hr])
    rw [acts_of_used s q hq, actsOn_blockReset] at this
    exact absurd this (by decide)
  have hevents : cycleEvents s c = portEvents s c := by
    rw [cycleEvents, List.filter_eq_self.mpr (by simpa using h), List.filter_eq_nil_iff.mpr (by simpa using h),
      List.append_nil]
  rw [← any_isBusErr s c hrst]
  cases hp : portEvents s c with
  | nil =>
    rw [hp] at hevents
    unfold cycle
    rw [hevents]
    exact (withSeq_of_used s q _ hq).trans (by simp [State.clearOuts])
  | cons x xs =>
    rw [cycle_eq_run s c _ hevents (by simp [hp]), hp]
    exact run_of_not_acts x xs s q hq s.inbox (fun y hy => ignored_of_mem hq c y (hp ▸ hy) (h y (hp ▸ hy))) 0

/-- A Tick beside an event that acts does not count (R227 d). -/
theorem cycle_without_tick (c : PortCycle) (e : Event) (ha : s.acts e = true)
    (he : c.rst = false → ∀ tick, e ∈ portEvents s { c with tickMs := tick }) :
    cycle c s = cycle { c with tickMs := false } s := by
  obtain ⟨x, hx, hmem⟩ : ∃ x, s.acts x = true ∧ ∀ tick, x ∈ portEvents s { c with tickMs := tick } := by
    by_cases hrst : c.rst = true
    · exact ⟨.blockReset, by rw [acts_of_used s q hq, actsOn_blockReset], fun _ => by simp [portEvents, hrst]⟩
    · exact ⟨e, ha, he (by simpa using hrst)⟩
  exact (cycle_of_acts hq c x (hmem c.tickMs) hx).trans
    (cycle_of_acts hq { c with tickMs := false } x (hmem false) hx).symm

end

end Sys2Proof.Machine
end

section
/-! Ignored events (spec 10_state.md R40, R43; 60_exceptions.md R227). -/

namespace Sys2Proof.Machine

theorem mem_portEvents_busDone (s : State) (c : PortCycle) (hrst : c.rst = false) (h : c.busDone = true) :
    Event.busDone (replyOf c.busFail c.busErr) ∈ portEvents s c := by
  simp [portEvents, busPortEvent, hrst, h]

theorem mem_portEvents_pwrDone (s : State) (c : PortCycle) (hrst : c.rst = false) (h : c.pwrDone = true) :
    Event.pwrDone (replyOf c.pwrFail c.pwrErr) ∈ portEvents s c := by
  simp [portEvents, pwrPortEvent, hrst, h]

/-- Settles O41: an event acts only where its port is active, and there the handlers are those of the ignore cells; a cycle
is the step of the one event that acts (`cycle_of_acts`), whether or not a Tick comes with it. -/
theorem ignoredEventsChangeNothing : Obligations.IgnoredEventsChangeNothing := by
  refine ⟨fun s rest hused => ?_, fun s c hused => ?_⟩ <;> obtain ⟨q, hq⟩ := (seqOf_isSome_iff s.seq).mpr hused
  · have hq' : seqOf (s.taking rest).seq = some q := hq
    refine ⟨?_, ?_, ?_, ?_⟩
    · intro r hs h1 hA
      have hn : s.pwrValid = false := by
        rw [← Bool.not_eq_true, pwrValid_iff, not_or]
        exact ⟨h1, hA⟩
      rw [step_of_sees s _ rest hs]
      exact onPwrDone_of_not_acts r _ q hq' (by rw [actsOn_pwrDone, ← pwrValid_of_used hq, hn])
    · intro hs hn
      rw [step_of_sees s _ rest hs]
      exact onBusOk_of_not_acts _ q hq' (by rw [actsOn_busDone, ← busValid_of_used hq, hn])
    · intro e hs hn
      rw [step_of_sees s _ rest hs]
      exact onBusErr_of_not_acts e _ q hq' (by rw [actsOn_busDone, ← busValid_of_used hq, hn])
    · intro hs hseq
      rw [step_of_sees s _ rest hs]
      exact onTick_of_not_acts _ q hq' (by rw [actsOn_tick, isDelay_of_seq hq hseq])
  · refine ⟨length_filter_acts_le_one hq c, cycle_of_acts hq c, cycle_of_none_acts hq c, ?_⟩
    constructor
    · intro hv hd
      exact cycle_without_tick hq c (.busDone (replyOf c.busFail c.busErr))
        (by rw [acts_of_used s q hq, actsOn_busDone, ← busValid_of_used hq, hv])
        fun hrst tick => mem_portEvents_busDone s { c with tickMs := tick } hrst hd
    · intro hv hd
      exact cycle_without_tick hq c (.pwrDone (replyOf c.pwrFail c.pwrErr))
        (by rw [acts_of_used s q hq, actsOn_pwrDone, ← pwrValid_of_used hq, hv])
        fun hrst tick => mem_portEvents_pwrDone s { c with tickMs := tick } hrst hd

end Sys2Proof.Machine
end

section
/-! The Script ROM (spec 20_memory.md R51, R52, R56, R60): what it holds, and that nothing changes it. -/

namespace Sys2Proof

theorem Config.stepBase_zero (c : Config) : c.stepBase 0 = 0 := rfl

theorem Config.stepBase_nSteps (c : Config) : c.stepBase c.nSteps = c.scriptBytes := by
  rw [Config.stepBase, Config.nSteps, List.take_length, Config.scriptBytes]

namespace Machine

/-! ### What it holds -/

theorem read_romOf_eq_none_iff (c : Config) (a : Nat) : (romOf c).read a = none ↔ c.scriptBytes ≤ a := by
  rw [read_romOf, List.getElem?_eq_none_iff, scriptImage_length, Config.scriptBytes]

theorem read_romOf_isSome_iff (c : Config) (a : Nat) : ((romOf c).read a).isSome = true ↔ a < c.scriptBytes := by
  rw [Option.isSome_iff_ne_none, ne_eq, read_romOf_eq_none_iff, Nat.not_le]

/-- The len byte of step `i` is its number of data bytes, where that fits a byte (R51, R76). -/
theorem read_len (c : Config) (i : Nat) (st : ScriptStep) (h : c.script[i]? = some st) (hd : st.data.length ≤ 255) :
    ∃ len : Byte, (romOf c).read (c.stepBase i + 1) = some len ∧ len.toNat = st.data.length :=
  ⟨_, (read_header c i st h).2, by simp; omega⟩

/-- Settles O7: `read_header`, `read_len` and `read_data` for the entry of a step, `Config.stepBase_succ` for the place of
the next one. -/
theorem romHoldsTheScriptImage : Obligations.RomHoldsTheScriptImage := by
  intro c
  refine ⟨fun i st hst hd => ⟨(read_header c i st hst).1, read_len c i st hst hd, read_data c i st hst, ?_⟩,
    c.stepBase_zero, c.stepBase_nSteps, fun a => (read_romOf_eq_none_iff c a).mpr⟩
  rw [c.stepBase_succ i st hst, Nat.add_assoc]

/-- Settles O8: a read of the ROM is a read of the image (`read_romOf`), whose length is `SCRIPT_BYTES`. -/
theorem romIsMappedBelowScriptBytes : Obligations.RomIsMappedBelowScriptBytes :=
  fun c hv => ⟨read_romOf c, read_romOf_isSome_iff c, romOf_wf c hv⟩

/-! ### Nothing changes it -/

/-- `t` has the Script ROM and the parameters of `s` (R60, R9). -/
def State.SameStores (s t : State) : Prop := t.rom = s.rom ∧ t.cfg = s.cfg

theorem Move.sameStores {s t : State} (m : Move s t) : s.SameStores t := ⟨m.rom_eq, m.cfg_eq⟩

theorem withSeq_sameStores {s t : State} {k : SeqState → Result} (h : withSeq s k = .next t)
    (hk : ∀ q t, k q = .next t → s.SameStores t) : s.SameStores t := by
  obtain ⟨q, -, ht⟩ := withSeq_next s t k h
  exact hk q t ht

theorem request_sameStores {op : HostCode} {accept : State → State} {s t : State} (h : request op accept s = .next t)
    (ha : s.SameStores (accept s)) : s.SameStores t := by
  rcases request_next op accept s t h with ⟨-, rfl⟩ | ⟨q, -, -, rfl⟩
  · exact ha
  · exact ⟨rfl, rfl⟩

theorem performIfLegal_sameStores (op : HostOp) {perform : State → State} {s : State} (h : s.SameStores (perform s)) :
    s.SameStores (performIfLegal op perform s) := by
  unfold performIfLegal
  split
  · exact h
  · exact ⟨rfl, rfl⟩

/-- An instruction writes neither: a word or an entry is issued, or a request is accepted, refused or held. -/
theorem exec_sameStores (i : Instr) (s t : State) (h : exec i s = .next t) : s.SameStores t := by
  cases i with
  | bwCmd | bwData | step | cmd | bank =>
    refine withSeq_sameStores h fun q t ht => ?_
    obtain rfl := Host.Outcome.next.inj ht
    exact ⟨rfl, rfl⟩
  | prepare | enable | disable | unprepare | getModes =>
    exact request_sameStores h (performIfLegal_sameStores _ ⟨rfl, rfl⟩)
  | reserved000 | reserved110 | reserved111 => exact request_sameStores h ⟨rfl, rfl⟩

/-- Settles O44: no move and no meaning writes the ROM or the parameters, and the mode registers depend on these alone. -/
theorem romAndParametersNeverChange : Obligations.RomAndParametersNeverChange := by
  refine ⟨fun s t h => ?_, exec_sameStores⟩
  obtain ⟨hrom, hcfg⟩ := (step_move s t h).sameStores
  exact ⟨hrom, hcfg, fun a => by rw [State.modeData, State.modeData, hcfg]⟩

end Machine
end Sys2Proof
end

section
/-! Collaborator requests (spec 20_memory.md R57): the ports show what a step emits, and while a request is outstanding only
its answer makes the block emit. -/

namespace Sys2Proof.Machine

/-! ### The ports show what was emitted (R36 to R39) -/

/-- A state's outputs are at most one, and the port of the one it has shows it: a transfer or a power request is
outstanding, the reset line has its level. -/
inductive State.ShowsOutput (t : State) : Prop
  | nothing (ho : t.outs = [])
  | response (st : StatusCode) (e : Nat) (n : BitVec 2) (ho : t.outs = [.respond st e n])
  | transfer (ho : t.outs = [.busXfer t.busWord]) (hv : t.busValid = true)
  | power (ho : t.outs = [.pwrReq t.pwrOn]) (hv : t.pwrValid = true)
  | resetLine (ho : t.outs = [.rstSet t.rstOut])

theorem Move.showsOutput {s t : State} (m : Move s t) : t.ShowsOutput := by
  cases m with
  | waits | reset | poweredOn | powerIgnored | sleepOutSent | doneAfterCommand | doneAfterData | busOkIgnored
  | busErrIgnored | ticks | tickIgnored => exact .nothing rfl
  | enabled | disabled | modes | refusedSeq | refusedOp | powerOnFailed | poweredOff | powerOffFailed | busFailed
  | ready => exact .response _ _ _ rfl
  | sleepOut | scriptStarts | stepAfterCommand | firstData | stepAfterData | nextData => exact .transfer rfl rfl
  | powerOn | powerOff => exact .power rfl rfl
  | resetOn | resetOff => exact .resetLine rfl

section
variable {t : State} (h : t.ShowsOutput)
include h

theorem State.ShowsOutput.length_outs_le_one : t.outs.length ≤ 1 := by
  cases h with
  | nothing ho | response _ _ _ ho | transfer ho | power ho | resetLine ho => simp [ho]

theorem State.ShowsOutput.of_busXfer (w : BusWord) (hw : OutEvent.busXfer w ∈ t.outs) :
    t.busValid = true ∧ t.busWord = w := by
  cases h with
  | transfer ho hv => exact ⟨hv, by simpa [ho, eq_comm] using hw⟩
  | nothing ho | response _ _ _ ho | power ho | resetLine ho => simp [ho] at hw

theorem State.ShowsOutput.of_pwrReq (b : Bool) (hb : OutEvent.pwrReq b ∈ t.outs) : t.pwrValid = true ∧ t.pwrOn = b := by
  cases h with
  | power ho hv => exact ⟨hv, by simpa [ho, eq_comm] using hb⟩
  | nothing ho | response _ _ _ ho | transfer ho | resetLine ho => simp [ho] at hb

theorem State.ShowsOutput.of_rstSet (l : Bool) (hl : OutEvent.rstSet l ∈ t.outs) : t.rstOut = l := by
  cases h with
  | resetLine ho => simpa [ho, eq_comm] using hl
  | nothing ho | response _ _ _ ho | transfer ho | power ho => simp [ho] at hl

end

/-! ### An outstanding request (R37, R38) -/

/-- A transfer and a power request are outstanding in different states of the sequencer. -/
theorem not_busValid_and_pwrValid (s : State) : ¬ (s.busValid = true ∧ s.pwrValid = true) := by
  rw [busValid_iff, pwrValid_iff]
  generalize s.seq = c
  revert c
  decide

/-- A step emits only where it takes an event that acts in its state, by a rule of R40. -/
theorem Move.acts_of_outs_ne_nil {s t : State} (m : Move s t) (ho : t.outs ≠ []) :
    ∃ e rest q, s.Sees e rest ∧ e ≠ .blockReset ∧ seqOf s.seq = some q ∧ q.actsOn e = true := by
  cases m with
  | waits | reset | poweredOn | powerIgnored | sleepOutSent | doneAfterCommand | doneAfterData | busOkIgnored
  | busErrIgnored | ticks | tickIgnored => exact absurd rfl ho
  | busFailed _ _ hs hq => rcases hq with hq | hq | hq <;> exact ⟨_, _, _, hs, by simp, hq, rfl⟩
  | _ => exact ⟨_, _, _, ‹s.Sees _ _›, by simp, ‹seqOf s.seq = some _›, rfl⟩

/-- What acts while a transfer is outstanding is its answer. -/
theorem eq_busDone_of_acts {q : SeqState} {e : Event} (hq : q.isTransfer = true) (ha : q.actsOn e = true)
    (hr : e ≠ .blockReset) : ∃ r, e = .busDone r := by
  cases e with
  | busDone r => exact ⟨r, rfl⟩
  | blockReset => exact absurd rfl hr
  | req | pwrDone | tick => cases q <;> simp [SeqState.isTransfer, SeqState.actsOn] at hq ha

/-- What acts while a power request is outstanding is its answer. -/
theorem eq_pwrDone_of_acts {q : SeqState} {e : Event} (hq : q.isPower = true) (ha : q.actsOn e = true)
    (hr : e ≠ .blockReset) : ∃ r, e = .pwrDone r := by
  cases e with
  | pwrDone r => exact ⟨r, rfl⟩
  | blockReset => exact absurd rfl hr
  | req | busDone | tick => cases q <;> simp [SeqState.isPower, SeqState.actsOn] at hq ha

section
variable {s t : State} (m : Move s t) (ho : t.outs ≠ [])
include m ho

theorem Move.sees_busDone (hv : s.busValid = true) : ∃ r rest, s.Sees (.busDone r) rest := by
  obtain ⟨e, rest, q, hs, hr, hq, ha⟩ := m.acts_of_outs_ne_nil ho
  obtain ⟨r, rfl⟩ := eq_busDone_of_acts (busValid_of_used hq ▸ hv) ha hr
  exact ⟨r, rest, hs⟩

theorem Move.sees_pwrDone (hv : s.pwrValid = true) : ∃ r rest, s.Sees (.pwrDone r) rest := by
  obtain ⟨e, rest, q, hs, hr, hq, ha⟩ := m.acts_of_outs_ne_nil ho
  obtain ⟨r, rfl⟩ := eq_pwrDone_of_acts (pwrValid_of_used hq ▸ hv) ha hr
  exact ⟨r, rest, hs⟩

end

/-- Settles O45: each move shows its output at its port (`Move.showsOutput`), and one that emits takes an event that acts,
which while a request is outstanding is its answer. -/
theorem oneRequestOutstanding : Obligations.OneRequestOutstanding := by
  intro s t h
  have m := step_move s t h
  have hshow := m.showsOutput
  exact ⟨m.trace_eq, hshow.length_outs_le_one, not_busValid_and_pwrValid t, hshow.of_busXfer, hshow.of_pwrReq,
    hshow.of_rstSet, fun hv ho => m.sees_busDone ho hv, fun hv ho => m.sees_pwrDone ho hv⟩

end Sys2Proof.Machine
end

section
/-! Encodings (spec 30_encoding.md R71 to R82): the decoder gives back what the encoder wrote, under the name its bytes
have, and a decoded entry has exactly the bytes it was read from. -/

namespace Sys2Proof

/-! ### Bus words (R71) -/

theorem BusWord.dc_iff (w : BusWord) : w.getLsbD 8 = true ↔ 0x100 ≤ w.toNat := by
  have hmsb : w.getLsbD 8 = w.msb := w.msb_eq_getLsbD_last.symm
  rw [hmsb, w.msb_eq_decide, decide_eq_true_eq]

theorem decodeBusWord_eq (w : BusWord) :
    decodeBusWord w = if w.getLsbD 8 = true then .bwData (w.extractLsb' 0 8) else .bwCmd (w.extractLsb' 0 8) := by
  unfold decodeBusWord busDecode
  cases w.getLsbD 8 <;> rfl

/-- Settles O2: bit 8 says whether the word is below 0x100 (`BusWord.dc_iff`) and which kind the decoder reads. -/
theorem busWordFormat : Obligations.BusWordFormat := by
  refine fun w => ⟨fun h => ⟨?_, ?_⟩, fun h => ⟨w.dc_iff.mp h, ?_⟩⟩
  · rw [← Nat.not_le, ← w.dc_iff, h]
    exact Bool.false_ne_true
  · rw [decodeBusWord_eq, h, if_neg Bool.false_ne_true]
  · rw [decodeBusWord_eq, if_pos h]

/-- The two bytes of a bus word decode to it (log 7). -/
theorem decode_busWordBytes (c : Config) (w : BusWord) (rest : List Byte) :
    decode c .bw (busWordBytes w ++ rest) = .ok (decodeBusWord w, rest) := by
  have hlt : ((w.extractLsb' 8 1).setWidth 8 : Byte).toNat < 2 := by
    rw [BitVec.toNat_setWidth_of_le (by decide)]
    exact (w.extractLsb' 8 1).isLt
  have hbit : ∀ b : BitVec 1, (b.setWidth 8 : Byte).extractLsb' 0 1 = b := by decide
  have hw : w.extractLsb' 8 1 ++ w.extractLsb' 0 8 = w := by
    rw [BitVec.extractLsb'_append_extractLsb'_eq_extractLsb' (by decide)]
    exact BitVec.extractLsb'_eq_self
  simp only [decode, busWordBytes, List.cons_append, List.nil_append, if_pos hlt, hbit, hw]

/-! ### Host codes (R73, R74) -/

theorem hostCode_cases (op : HostCode) : op = 0b000#3 ∨ op = 0b001#3 ∨ op = 0b010#3 ∨ op = 0b011#3 ∨ op = 0b100#3
    ∨ op = 0b101#3 ∨ op = 0b110#3 ∨ op = 0b111#3 := by
  revert op
  decide

theorem encode_decodeHostCode (c : Config) (op : HostCode) : encode c (decodeHostCode op) = [op.setWidth 8] := by
  rcases hostCode_cases op with rfl | rfl | rfl | rfl | rfl | rfl | rfl | rfl <;> rfl

/-- The byte of a host code decodes to its operation (log 7). -/
theorem decode_hostCodeByte (c : Config) (op : HostCode) (rest : List Byte) :
    decode c .hop ([op.setWidth 8] ++ rest) = .ok (decodeHostCode op, rest) := by
  rcases hostCode_cases op with rfl | rfl | rfl | rfl | rfl | rfl | rfl | rfl <;> rfl

theorem decodeHostCode_injective : Function.Injective decodeHostCode := by
  unfold Function.Injective
  decide

/-- Settles O3: the eight rows of the table, and `encode_decodeHostCode`. -/
theorem hostCodesOfTheTable : Obligations.HostCodesOfTheTable :=
  ⟨⟨rfl, rfl, rfl, rfl, rfl⟩, ⟨rfl, rfl, rfl⟩, encode_decodeHostCode⟩

/-! ### Script entries (R76, R79, R81, R82) -/

/-- An entry is decoded exactly where its data bytes are all there, and then it is its header's name for them. -/
theorem decodeEntry_eq_ok_iff (c : Config) (cmd len : Byte) (rest : List Byte) (x : Instr × List Byte) :
    decodeEntry c (cmd :: len :: rest) = .ok x ↔
      len.toNat ≤ rest.length ∧ x = (nameEntry c cmd (rest.take len.toNat), rest.drop len.toNat) := by
  rw [decodeEntry]
  split
  · next h => simp [Nat.not_le.mpr h]
  · next h => simp [Nat.not_lt.mp h, eq_comm]

/-- The bytes of an entry decode to the name they have. -/
theorem decode_entryBytes (c : Config) (cmd : Byte) (data rest : List Byte) (h : data.length ≤ 255) :
    decode c .step (cmd :: BitVec.ofNat 8 data.length :: data ++ rest) = .ok (nameEntry c cmd data, rest) := by
  have hlen : (BitVec.ofNat 8 data.length).toNat = data.length := by simp; omega
  refine (decodeEntry_eq_ok_iff c cmd _ (data ++ rest) _).mpr ⟨?_, ?_⟩
  · rw [hlen, List.length_append]
    exact Nat.le_add_right _ _
  · rw [hlen, List.take_left, List.drop_left]

theorem nameEntry_bankStep (c : Config) (idx : Byte) : nameEntry c c.bankselCmd (c.bankStep idx).data = .bank idx :=
  if_pos ⟨rfl, rfl, rfl, rfl, rfl⟩

/-- What decodes to an entry is that entry's bytes and the rest. -/
theorem bytes_of_decode_step (c : Config) (bytes rest : List Byte) (i : Instr)
    (h : decode c .step bytes = .ok (i, rest)) : bytes = encode c i ++ rest ∧ i.lenOk = true := by
  match bytes, h with
  | cmd :: len :: tail, h =>
    obtain ⟨hle, hx⟩ := (decodeEntry_eq_ok_iff c cmd len tail (i, rest)).mp h
    obtain ⟨rfl, rfl⟩ := Prod.mk.inj hx
    have htake : (tail.take len.toNat).length = len.toNat := List.length_take_of_le hle
    refine ⟨?_, nameEntry_lenOk c cmd _ ?_⟩
    · rw [encode_nameEntry, htake, BitVec.ofNat_toNat, BitVec.setWidth_eq, List.cons_append, List.cons_append,
        List.take_append_drop]
    · rw [htake]
      exact Nat.le_of_lt_succ len.isLt

/-- Settles O6: `bytes_of_decode_step`, and `decodeEntry_eq_ok_iff` for what is rejected. -/
theorem entryBytesAreRecovered : Obligations.EntryBytesAreRecovered := by
  refine ⟨bytes_of_decode_step, fun c cmd len rest => ⟨?_, fun h => ?_⟩⟩
  · rintro ⟨x, hx⟩
    exact ((decodeEntry_eq_ok_iff c cmd len rest x).mp hx).1
  · exact ⟨_, (decodeEntry_eq_ok_iff c cmd len rest _).mpr ⟨h, rfl⟩⟩

/-! ### Every instruction -/

/-- Decoding undoes encoding, up to the name of an entry. -/
theorem decode_encode (c : Config) (i : Instr) (rest : List Byte) (h : i.lenOk = true) :
    decode c i.format (encode c i ++ rest) = .ok (i.canonical c, rest) := by
  cases i with
  | bwCmd b => exact (decode_busWordBytes c _ rest).trans (by rw [Machine.decodeBusWord_busEncode_command]; rfl)
  | bwData b => exact (decode_busWordBytes c _ rest).trans (by rw [Machine.decodeBusWord_busEncode_data]; rfl)
  | prepare => exact decode_hostCodeByte c 0b001#3 rest
  | enable => exact decode_hostCodeByte c 0b010#3 rest
  | disable => exact decode_hostCodeByte c 0b011#3 rest
  | unprepare => exact decode_hostCodeByte c 0b100#3 rest
  | getModes => exact decode_hostCodeByte c 0b101#3 rest
  | reserved000 => exact decode_hostCodeByte c 0b000#3 rest
  | reserved110 => exact decode_hostCodeByte c 0b110#3 rest
  | reserved111 => exact decode_hostCodeByte c 0b111#3 rest
  | step cmd data => exact decode_entryBytes c cmd data rest (of_decide_eq_true h)
  | cmd cmd => exact decode_entryBytes c cmd [] rest (Nat.zero_le _)
  | bank idx =>
    have hd := decode_entryBytes c c.bankselCmd (c.bankStep idx).data rest (show 5 ≤ 255 by decide)
    rwa [nameEntry_bankStep] at hd

theorem encode_canonical (c : Config) (i : Instr) : encode c (i.canonical c) = encode c i := by
  cases i with
  | step cmd data => exact encode_nameEntry c cmd data
  | _ => rfl

theorem canonical_format (c : Config) (i : Instr) : (i.canonical c).format = i.format := by
  cases i with
  | step cmd data => exact nameEntry_format c cmd data
  | _ => rfl

/-- An instruction is its own name, unless it is a STEP with the bytes of CMD or of BANK. -/
theorem canonical_cases (c : Config) (i : Instr) : i.canonical c = i
    ∨ (∃ k, i = .step k [] ∧ i.canonical c = .cmd k)
    ∨ ∃ idx, i = .step c.bankselCmd (c.bankStep idx).data ∧ i.canonical c = .bank idx := by
  cases i with
  | step cmd data =>
    rcases nameEntry_cases c cmd data with h | ⟨rfl, h⟩ | ⟨idx, rfl, rfl, h⟩
    · exact .inl h
    · exact .inr (.inl ⟨cmd, rfl, h⟩)
    · exact .inr (.inr ⟨idx, rfl, h⟩)
  | _ => exact .inl rfl

/-- Settles O5: `decode_encode`, with the bytes and the format of a name (`encode_canonical`, `canonical_format`) and
which names differ (`canonical_cases`). -/
theorem decodeOfEncode : Obligations.DecodeOfEncode :=
  ⟨fun c i rest h => ⟨decode_encode c i rest h, encode_canonical c i, canonical_format c i⟩,
    fun c i hne => (canonical_cases c i).resolve_left hne⟩

/-- Settles O4: each of the words is the encoding of its instruction, so `decode_encode` reads it back. -/
theorem writtenOutWordsDecode : Obligations.WrittenOutWordsDecode := fun c =>
  ⟨decode_encode c (.bwCmd 0xA5#8) [] rfl, decode_encode c (.bwData 0xA5#8) [] rfl,
    decode_encode c (.bwData 0x00#8) [] rfl, decode_encode c .prepare [] rfl, decode_encode c .enable [] rfl,
    decode_encode c .disable [] rfl, decode_encode c .unprepare [] rfl, decode_encode c .getModes [] rfl,
    decode_encode c .reserved111 [] rfl, decode_encode c (.step 0x3A#8 [0x60#8]) [] rfl,
    decode_encode c (.cmd 0x29#8) [] rfl, decode_encode c (.bank 0x00#8) [] rfl⟩

end Sys2Proof
end

section
/-! What the encodings mean to the machine: the answer to a reserved code (spec 30_encoding.md R74), the effect of a
pseudo form (R79), and which words go out (R72; 42_register_script.md R169). -/

namespace Sys2Proof.Machine

/-! ### Reserved codes and pseudo forms -/

/-- A reserved code is answered ILLEGAL_OP in `IDLE` (R74, R180). -/
theorem request_refuseReserved_of_idle (op : HostCode) (s : State) (h : s.seq = 0x0#4) :
    request op refuseReserved s = .next (s.answered 0b100#3 0 0b00#2) :=
  request_of_idle op _ s ((seqOf_eq_some_iff _ .idle).mpr h)

/-- Settles O19: the three meanings are one request that is refused (`request_refuseReserved_of_idle`), and the decoder
gives different codes different instructions. -/
theorem reservedCodesAreAnsweredIllegal : Obligations.ReservedCodesAreAnsweredIllegal :=
  ⟨⟨rfl, rfl, rfl⟩,
    fun s h => ⟨request_refuseReserved_of_idle _ s h, request_refuseReserved_of_idle _ s h,
      request_refuseReserved_of_idle _ s h⟩,
    fun _ _ h => decodeHostCode_injective h⟩

/-- Settles O25: by `canonical_cases`, a pseudo form begins a step with the header of its STEP. -/
theorem pseudoFormsAreSteps : Obligations.PseudoFormsAreSteps := by
  intro s i
  rcases canonical_cases s.cfg i with h | ⟨k, rfl, h⟩ | ⟨idx, rfl, h⟩
  · rw [h]
  · rw [h]; rfl
  · rw [h]; rfl

/-! ### The words that are sent -/

theorem mem_scriptWords {l : List ScriptStep} {st : ScriptStep} {w : BusWord} (hst : st ∈ l) (hw : w ∈ stepWords st) :
    w ∈ scriptWords l := by
  induction l with
  | nil => exact absurd hst List.not_mem_nil
  | cons x rest ih =>
    rw [scriptWords, List.mem_append]
    rcases List.mem_cons.mp hst with rfl | hrest
    · exact .inl hw
    · exact .inr (ih hrest)

/-- While a transfer is outstanding, `bus_word` is the sleep-out word or a word of the script (R37, R127). -/
theorem State.Inv.busWord_of_busValid {s : State} (hi : s.Inv) (hv : s.busValid = true) :
    s.busWord = busEncode .command s.cfg.slpoutCmd ∨ s.busWord ∈ scriptWords s.cfg.script := by
  rcases (busValid_iff s).mp hv with h | h | h
  · have hp := hi.placeOk
    have hq : seqOf s.seq = some .xSlp := (seqOf_eq_some_iff _ .xSlp).mpr h
    simp only [State.placeOk, hq] at hp
    exact .inl (of_decide_eq_true hp)
  · obtain ⟨st, hst, -, -, -, hw⟩ := (placeOk_xCmd s ((seqOf_eq_some_iff _ .xCmd).mpr h)).mp hi.placeOk
    rw [hw]
    exact .inr (mem_scriptWords (List.mem_of_getElem? hst) List.mem_cons_self)
  · obtain ⟨st, hst, -, -, -, hw⟩ := (placeOk_xData s ((seqOf_eq_some_iff _ .xData).mpr h)).mp hi.placeOk
    obtain ⟨d, hd, hw⟩ := Option.map_eq_some_iff.mp hw
    rw [← hw]
    exact .inr (mem_scriptWords (List.mem_of_getElem? hst)
      (List.mem_cons_of_mem _ (List.mem_map_of_mem (List.mem_of_getElem? hd))))

/-- Settles O55: a word that a step sends is the `bus_word` of the next state (`Move.showsOutput`), which meets the
invariant, so that word belongs to its place. -/
theorem onlyScriptWordsAreSent : Obligations.OnlyScriptWordsAreSent := by
  intro s t w hi h hw
  have m := step_move s t h
  obtain ⟨hv, rfl⟩ := m.showsOutput.of_busXfer w hw
  rw [← m.cfg_eq]
  exact (m.inv hi).busWord_of_busValid hv

end Sys2Proof.Machine
end

section
/-! The bus word encoder (spec 40_bus_word_encoder.md R100 to R105): the encoder and its inverse, where a word is issued, and
that no word follows one whose transfer failed. -/

namespace Sys2Proof.Machine

/-! ### `encode` and `decode` (R100, R101, R105) -/

theorem toNat_busEncode (k : BusKind) (b : Byte) : (busEncode k b).toNat = 0x100 * k.dc.toNat + b.toNat := by
  rw [busEncode, BitVec.toNat_append, ← Nat.shiftLeft_add_eq_or_of_lt b.isLt, Nat.shiftLeft_eq, Nat.mul_comm]

/-- Bit 8 of an encoded word says which kind it is. -/
theorem getLsbD_busEncode_iff (k : BusKind) (b : Byte) : (busEncode k b).getLsbD 8 = true ↔ k = .data := by
  have hdc : (busEncode k b).getLsbD 8 = k.dc.getLsbD 0 := BitVec.getLsbD_append
  rw [hdc]
  cases k <;> decide

theorem extractLsb'_busEncode (k : BusKind) (b : Byte) : (busEncode k b).extractLsb' 0 8 = b :=
  congrArg Prod.snd (busDecode_busEncode k b)

theorem dc_busDecode (w : BusWord) : (busDecode w).1.dc = w.extractLsb' 8 1 := by
  have hdc : (busDecode w).1.dc = BitVec.ofBool (w.getLsbD 8) := by
    rw [busDecode]
    cases w.getLsbD 8 <;> rfl
  rw [hdc]
  ext i hi
  simp [Nat.lt_one_iff.mp hi]

/-- The encoder undoes the decoder, so every 9-bit word is in its image (R105). -/
theorem busEncode_busDecode (w : BusWord) : busEncode (busDecode w).1 (busDecode w).2 = w := by
  rw [busEncode, dc_busDecode]
  exact (BitVec.extractLsb'_append_extractLsb'_eq_extractLsb' (by decide)).trans BitVec.extractLsb'_eq_self

/-- The encoder has a left inverse (R105). -/
theorem busEncode_injective {k k' : BusKind} {b b' : Byte} (h : busEncode k b = busEncode k' b') : k = k' ∧ b = b' := by
  have hd := congrArg busDecode h
  rw [busDecode_busEncode, busDecode_busEncode] at hd
  exact Prod.mk.inj hd

/-- Settles O1: the values are `toNat_busEncode`, and `busDecode` is the encoder's inverse on both sides. -/
theorem busWordEncoderLaw : Obligations.BusWordEncoderLaw := by
  refine ⟨fun b => ⟨rfl, ?_, rfl, toNat_busEncode .data b⟩,
    fun k b => ⟨getLsbD_busEncode_iff k b, extractLsb'_busEncode k b⟩,
    fun _ _ _ _ => busEncode_injective, fun w => ⟨_, _, busEncode_busDecode w⟩, fun w => ?_, busDecode_busEncode⟩
  · exact (toNat_busEncode .command b).trans (Nat.zero_add _)
  · rw [busDecode]
    cases w.getLsbD 8 <;> rfl

/-! ### A word is issued (R102) -/

theorem commandWait_code (q : SeqState) : (commandWait q).code = if q.code = 0x4#4 then 0x5#4 else 0x7#4 := by
  cases q <;> rfl

/-- Settles O23: both meanings are `issue_word` in a used state, and `commandWait_code` names the state a Command word waits
in. -/
theorem busWordsAreIssued : Obligations.BusWordsAreIssued := by
  intro s hused
  obtain ⟨q, hq⟩ := (seqOf_isSome_iff s.seq).mpr hused
  refine ⟨fun c => (execBwCmd_of_used c s q hq).trans ?_, fun d => execBwData_of_used d s q hq⟩
  rw [issueWord_eq, commandWait_code, (seqOf_eq_some_iff s.seq q).mp hq]
  rfl

/-! ### A failed transfer (R104) -/

theorem isTransfer_of_busValid {s : State} (hv : s.busValid = true) : ∃ q, seqOf s.seq = some q ∧ q.isTransfer = true := by
  rcases (busValid_iff s).mp hv with h | h | h
  · exact ⟨.xSlp, (seqOf_eq_some_iff _ .xSlp).mpr h, rfl⟩
  · exact ⟨.xCmd, (seqOf_eq_some_iff _ .xCmd).mpr h, rfl⟩
  · exact ⟨.xData, (seqOf_eq_some_iff _ .xData).mpr h, rfl⟩

/-- Whichever word is outstanding, its failed transfer ends the operation (R123, R125, R152). -/
theorem onBusErr_of_isTransfer (e : Nat) {s : State} {q : SeqState} (hq : seqOf s.seq = some q)
    (ht : q.isTransfer = true) : onBusErr e s = .next (finish .busErr e 0#2 s.forgetController) := by
  rw [onBusErr, withSeq_of_used s q _ hq]
  cases q with
  | xSlp | xCmd | xData => rfl
  | _ => exact absurd ht Bool.false_ne_true

theorem step_busErr {s : State} {e : Nat} {rest : List Event} (hv : s.busValid = true)
    (hs : s.Sees (.busDone (.err e)) rest) : step s = .next (finish .busErr e 0#2 (s.taking rest).forgetController) := by
  obtain ⟨q, hq, ht⟩ := isTransfer_of_busValid hv
  rw [step_of_sees s _ rest hs]
  exact onBusErr_of_isTransfer e (s := s.taking rest) hq ht

/-- The states in which a step starts a transfer: sleep-out ends the post-reset delay (R151), and the script's words follow
the sleep-out delay and the transfers of the executor (R121, R122, R124, R153). -/
theorem Move.seq_of_busXfer {s t : State} (m : Move s t) {w : BusWord} (hw : OutEvent.busXfer w ∈ t.outs) :
    s.seq = 0x4#4 ∨ s.seq = 0x6#4 ∨ s.seq = 0x7#4 ∨ s.seq = 0x8#4 := by
  cases m with
  | sleepOut _ _ hq => exact .inl ((seqOf_eq_some_iff _ .pDlyPost).mp hq)
  | scriptStarts _ _ _ _ hq => exact .inr (.inl ((seqOf_eq_some_iff _ .xDlySlp).mp hq))
  | stepAfterCommand _ _ _ _ hq | firstData _ _ _ hq =>
    exact .inr (.inr (.inl ((seqOf_eq_some_iff _ .xCmd).mp hq)))
  | stepAfterData _ _ _ _ hq | nextData _ _ _ hq => exact .inr (.inr (.inr ((seqOf_eq_some_iff _ .xData).mp hq)))
  | _ => simp at hw

/-- Settles O49: `step_busErr` is the answer to a failed transfer, and `IDLE` is not among the states of
`Move.seq_of_busXfer`. -/
theorem noWordAfterAFailure : Obligations.NoWordAfterAFailure := by
  refine ⟨fun s rest e hv hs => ⟨_, step_busErr hv hs, rfl, rfl, rfl⟩, fun s t w hidle h hw => ?_⟩
  have hq := (step_move s t h).seq_of_busXfer hw
  rw [hidle] at hq
  exact absurd hq (by decide)

end Sys2Proof.Machine
end

section
/-! The controller driver, word by word (spec 41_controller_driver.md R121 to R126, R155; 20_memory.md R52): how an entry
begins, and what the transport's answer to each of its words leads to. -/

namespace Sys2Proof.Machine

/-! ### An entry begins (R121) -/

/-- Settles O24: in a used state each form is `begin_step` with the form's header, which `beginStepWith_eq` writes out. -/
theorem scriptEntriesBegin : Obligations.ScriptEntriesBegin := by
  intro s hused
  obtain ⟨q, hq⟩ := (seqOf_isSome_iff s.seq).mpr hused
  exact ⟨fun cmd data => execStep_of_used cmd data s q hq, fun cmd => execCmd_of_used cmd s q hq,
    fun idx => execBank_of_used idx s q hq⟩

/-- `begin_step` reads both header bytes (R52, R121). -/
theorem beginStep_of_unmapped (s : State)
    (h : s.rom.read s.romPtr.toNat = none ∨ s.rom.read (s.romPtr.toNat + 1) = none) :
    beginStep s = .fault .scriptOob := by
  simp only [beginStep, State.fetchEntry, State.scriptRead]
  rcases h with h | h
  · simp only [h]
  · simp only [h]
    cases s.rom.read s.romPtr.toNat <;> rfl

/-- Settles O26: `begin_step` is `beginStep_of_header` or `beginStep_of_unmapped`; `next_step` is one of the two branches of
its definition, the last one `script_done` with its delay (`startDelay_eq`). -/
theorem beginStepAndNextStep : Obligations.BeginStepAndNextStep := by
  refine ⟨fun s hused => ?_, fun s => ⟨nextStep_of_last s, nextStep_of_more s⟩⟩
  obtain ⟨q, hq⟩ := (seqOf_isSome_iff s.seq).mpr hused
  exact ⟨fun c len hc hl => beginStep_of_header s c len q hq hc hl, beginStep_of_unmapped s⟩

/-! ### A word was transferred (R122, R124) -/

/-- The next data byte is read from the ROM (R52). -/
theorem sendDataByte_of_unmapped (s : State) (h : s.rom.read s.romPtr.toNat = none) :
    sendDataByte s = .fault .scriptOob := by
  simp only [sendDataByte, State.scriptRead, h]

/-- Settles O27: the step is `commandSent`, one lemma for each of its branches. -/
theorem commandWordSent : Obligations.CommandWordSent := by
  intro s rest hseq hs
  have hq : seqOf (s.taking rest).seq = some .xCmd := (seqOf_eq_some_iff _ .xCmd).mpr hseq
  rw [step_commandSent hseq hs]
  refine ⟨commandSent_of_noData (s.taking rest), fun b h0 hb => ?_, fun h0 hb => ?_⟩
  · rw [commandSent_of_data (s.taking rest) h0]
    exact sendDataByte_of_read (s.taking rest) b _ hq hb
  · rw [commandSent_of_data (s.taking rest) h0]
    exact sendDataByte_of_unmapped (s.taking rest) hb

/-- Settles O28: the step is `dataSent`, one lemma for each of its branches; `m` is the state past the transferred byte. -/
theorem dataWordSent : Obligations.DataWordSent := by
  intro s rest hseq hs m
  have hq : seqOf m.seq = some .xData := (seqOf_eq_some_iff _ .xData).mpr hseq
  rw [step_dataSent hseq hs]
  refine ⟨dataSent_of_last (s.taking rest), fun b h0 hb => ?_, fun h0 hb => ?_⟩
  · rw [dataSent_of_more (s.taking rest) h0]
    exact sendDataByte_of_read m b _ hq hb
  · rw [dataSent_of_more (s.taking rest) h0]
    exact sendDataByte_of_unmapped m hb

/-! ### A word failed (R123, R125) -/

/-- Settles O29: a transfer is outstanding in `X_CMD` and in `X_DATA`, and `step_busErr` is the answer to its failure. -/
theorem failedWordEndsTheOperation : Obligations.FailedWordEndsTheOperation := by
  intro s rest e hseq hs
  have hv : s.busValid = true := (busValid_iff s).mpr (.inr hseq)
  exact step_busErr hv hs

end Sys2Proof.Machine
end

section
/-! Runs of the executor (spec 41_controller_driver.md R127, R128): where the executor is in a script step, that each
successful transfer leads to the next word, and what a run over several of them sends. -/

namespace Sys2Proof.Machine

/-! ### The place in a script step -/

/-- The script pointers are in the entry of `st`, the step `step_idx` of a valid script: `cur_len` is its length, and
`rom_ptr` is at the data byte numbered `byte_idx`, or behind the header of an entry without data (R23, R51). -/
structure State.InEntry (s : State) (st : ScriptStep) : Prop where
  cfgValid : s.cfg.valid = true
  romHolds : s.rom = romOf s.cfg
  entry    : s.cfg.script[s.stepIdx.toNat]? = some st
  curLen   : s.curLen.toNat = st.data.length
  romPtr   : s.romPtr.toNat = s.cfg.stepBase s.stepIdx.toNat + 2 + s.byteIdx.toNat

/-- The block waits for the transport's answer to a word of `st`, and the data bytes `left` of it are still to be sent: all
of them in `X_CMD`, and in `X_DATA` those after `byte_idx` (R121 to R124). -/
structure State.Sending (s : State) (st : ScriptStep) (left : List Byte) : Prop extends s.InEntry st where
  word : (s.seq = 0x7#4 ∧ s.byteIdx = 0#8 ∧ left = st.data)
    ∨ (s.seq = 0x8#4 ∧ s.byteIdx.toNat < st.data.length ∧ left = st.data.drop (s.byteIdx.toNat + 1))

/-- Between `s` and `t` the block sent the words `ws` and nothing else, and `rest` are the inputs still to come. -/
structure State.SentTo (s : State) (ws : List BusWord) (rest : List Event) (t : State) : Prop where
  cfg   : t.cfg = s.cfg
  trace : t.trace = s.trace ++ transfers ws
  inbox : t.inbox = rest

/-- The input is taken, and the script pointers are at `rom_ptr` = `p` and `byte_idx` = `k`. -/
def State.takingAt (s : State) (rest : List Event) (p : RomAddr) (k : Byte) : State :=
  { s.taking rest with romPtr := p, byteIdx := k }

/-- The first input is seen, where it is no request. -/
theorem sees_of_head {s : State} {e : Event} {rest : List Event} (h : s.inbox = e :: rest) (he : e.isRequest = false) :
    s.Sees e rest :=
  ⟨[], rest, h, rfl, by simp, by simp, fun ⟨op, hop⟩ => by simp [hop, Event.isRequest] at he⟩

/-- `begin_step` at the entry of step `step_idx` sends its Command word, with all its data bytes left (R121). -/
theorem beginStep_sending {s : State} {st : ScriptStep} {q : SeqState} (hv : s.cfg.valid = true)
    (hrom : s.rom = romOf s.cfg) (hq : seqOf s.seq = some q) (hst : s.cfg.script[s.stepIdx.toNat]? = some st)
    (hp : s.romPtr.toNat = s.cfg.stepBase s.stepIdx.toNat) :
    ∃ t, beginStep s = .next t ∧ t.Sending st st.data ∧ t.stepIdx = s.stepIdx
      ∧ s.SentTo [busEncode .command st.cmd] s.inbox t := by
  obtain ⟨hcmd, hlen⟩ := read_header _ _ _ hst
  rw [← hp, ← hrom] at hcmd hlen
  have hend := s.cfg.stepBase_end _ _ hst
  have hbytes := s.cfg.valid_scriptBytes hv
  have hdata := s.cfg.valid_dataLength hv st (List.mem_of_getElem? hst)
  refine ⟨_, beginStep_of_header s _ _ q hq hcmd hlen, ⟨⟨hv, hrom, hst, ?_, ?_⟩, .inl ⟨rfl, rfl, rfl⟩⟩,
    rfl, rfl, rfl, rfl⟩
  · simp; omega
  · simp [BitVec.toNat_add, hp]; omega

section
variable {s : State} {st : ScriptStep} {rest : List Event}

theorem State.Sending.busValid {left : List Byte} (h : s.Sending st left) : s.busValid = true :=
  (busValid_iff s).mpr (.inr (h.word.imp And.left And.left))

theorem State.InEntry.advance (h : s.InEntry st) (hk : s.byteIdx.toNat < st.data.length) :
    (s.romPtr + 1#16).toNat = s.romPtr.toNat + 1 ∧ (s.byteIdx + 1#8).toNat = s.byteIdx.toNat + 1 :=
  toNat_advance h.cfgValid ⟨st, h.entry, h.romPtr, hk, h.curLen⟩

/-- Where `rom_ptr` is at the first of the bytes to be sent, that byte is read and the others are left (R52, R122, R124). -/
theorem State.InEntry.issueData {d : Byte} {left : List Byte} (h : s.InEntry st)
    (hleft : d :: left = st.data.drop s.byteIdx.toNat) :
    s.rom.read s.romPtr.toNat = some d ∧ (s.issued (busEncode .data d) 0x8#4).Sending st left := by
  have hd : st.data[s.byteIdx.toNat]? = some d := by rw [← List.head?_drop, ← hleft]; rfl
  have hk : s.byteIdx.toNat < st.data.length := (List.getElem?_eq_some_iff.mp hd).1
  have hrest : left = st.data.drop (s.byteIdx.toNat + 1) := by rw [← List.tail_drop, ← hleft]; rfl
  refine ⟨?_, ⟨h.cfgValid, h.romHolds, h.entry, h.curLen, h.romPtr⟩, .inr ⟨rfl, hk, hrest⟩⟩
  rw [h.romHolds, h.romPtr, read_data _ _ st h.entry _ hk, hd]

/-- A data byte that is left is the next word (R122, R124). -/
theorem State.Sending.step_data {d : Byte} {left : List Byte} (h : s.Sending st (d :: left))
    (hs : s.Sees (.busDone .ok) rest) :
    ∃ t, step s = .next t ∧ t.Sending st left ∧ t.stepIdx = s.stepIdx
      ∧ s.SentTo [busEncode .data d] rest t := by
  rcases h.word with ⟨hseq, h0, hleft⟩ | ⟨hseq, hk, hleft⟩
  · have hne : s.curLen ≠ 0#8 := by
      intro hz
      have hlen := h.curLen
      simp [hz, ← hleft] at hlen
    have hin : (s.taking rest).InEntry st := ⟨h.cfgValid, h.romHolds, h.entry, h.curLen, h.romPtr⟩
    obtain ⟨hread, hsend⟩ := hin.issueData (by rw [taking_byteIdx, h0]; exact hleft)
    obtain ⟨-, hnext, -⟩ := commandWordSent s rest hseq hs
    exact ⟨_, hnext d hne hread, hsend, rfl, rfl, rfl, rfl⟩
  · obtain ⟨hp1, hk1⟩ := h.advance hk
    have hlen := congrArg List.length hleft
    rw [List.length_cons, List.length_drop] at hlen
    have hne : s.byteIdx + 1#8 ≠ s.curLen := by
      rw [ne_eq, BitVec.toNat_eq, hk1, h.curLen]
      omega
    have hin : (s.takingAt rest (s.romPtr + 1#16) (s.byteIdx + 1#8)).InEntry st :=
      ⟨h.cfgValid, h.romHolds, h.entry, h.curLen, by simp only [State.takingAt, hp1, hk1, h.romPtr]; rfl⟩
    obtain ⟨hread, hsend⟩ := hin.issueData (by simp only [State.takingAt, hk1]; exact hleft)
    obtain ⟨-, hnext, -⟩ := dataWordSent s rest hseq hs
    exact ⟨_, hnext d hne hread, hsend, rfl, rfl, rfl, rfl⟩

/-- After the last word of a step comes `next_step`, with `rom_ptr` behind the step's entry (R122, R124). -/
theorem State.Sending.step_last (h : s.Sending st []) (hs : s.Sees (.busDone .ok) rest) :
    ∃ p k, step s = nextStep (s.takingAt rest p k)
      ∧ p.toNat = s.cfg.stepBase s.stepIdx.toNat + 2 + st.data.length := by
  rcases h.word with ⟨hseq, h0, hleft⟩ | ⟨hseq, hk, hleft⟩
  · have hlen : s.curLen = 0#8 := BitVec.eq_of_toNat_eq (by rw [h.curLen, ← hleft]; rfl)
    exact ⟨_, _, (commandWordSent s rest hseq hs).1 hlen, by rw [h.romPtr, h0, ← hleft]; rfl⟩
  · obtain ⟨hp1, hk1⟩ := h.advance hk
    have hlen := List.drop_eq_nil_iff.mp hleft.symm
    have hlast : s.byteIdx + 1#8 = s.curLen := BitVec.eq_of_toNat_eq (by rw [hk1, h.curLen]; omega)
    exact ⟨_, _, (dataWordSent s rest hseq hs).1 hlast, by rw [hp1, h.romPtr]; omega⟩

/-- The Command word of the next step follows the last word of a step (R126). -/
theorem State.Sending.step_next {st' : ScriptStep} (h : s.Sending st [])
    (hst' : s.cfg.script[s.stepIdx.toNat + 1]? = some st') (hs : s.Sees (.busDone .ok) rest) :
    ∃ t, step s = .next t ∧ t.Sending st' st'.data ∧ t.stepIdx.toNat = s.stepIdx.toNat + 1
      ∧ s.SentTo [busEncode .command st'.cmd] rest t := by
  obtain ⟨p, k, hstep, hp⟩ := h.step_last hs
  obtain ⟨q, hq, -⟩ := isTransfer_of_busValid h.busValid
  have hi : s.stepIdx.toNat + 1 < s.cfg.nSteps := (List.getElem?_eq_some_iff.mp hst').1
  have h255 := (s.cfg.valid_nSteps h.cfgValid).2
  have hsucc : (s.stepIdx + 1#8).toNat = s.stepIdx.toNat + 1 := by simp [BitVec.toNat_add]; omega
  have hn : (s.stepIdx + 1#8).toNat ≠ s.cfg.nSteps := by omega
  obtain ⟨t, ht, hsend, hidx, hsent⟩ :=
    beginStep_sending (s := { s.takingAt rest p k with stepIdx := s.stepIdx + 1#8 }) h.cfgValid h.romHolds hq
      (by rwa [← hsucc] at hst') (entryAt_succ h.cfgValid h.entry hp hn).2
  refine ⟨t, ?_, hsend, by rw [hidx]; exact hsucc, hsent.cfg, hsent.trace, hsent.inbox⟩
  rw [hstep, nextStep_of_more (s.takingAt rest p k) hn]
  exact ht

end

/-! ### Runs over successful transfers -/

/-- Where `P` says that words are still to be sent, a successful transfer leads to the first of them. -/
def SendsInOrder (P : List BusWord → State → Prop) : Prop :=
  ∀ w ws s rest, P (w :: ws) s → s.inbox = .busDone .ok :: rest →
    ∃ t, step s = .next t ∧ P ws t ∧ s.SentTo [w] rest t

/-- A run over as many successful transfers as there are words in `ws` sends these, and goes on from there. -/
theorem SendsInOrder.run {P : List BusWord → State → Prop} (hP : SendsInOrder P) {ws ws' : List BusWord} {s : State}
    {rest : List Event} (h : P (ws ++ ws') s) (hin : s.inbox = busOks ws.length ++ rest) :
    ∃ t, (∀ n, runFor (n + ws.length) s = runFor n t) ∧ P ws' t ∧ s.SentTo ws rest t := by
  induction ws generalizing s with
  | nil => exact ⟨s, fun _ => rfl, h, rfl, by simp [transfers], hin⟩
  | cons w ws ih =>
    obtain ⟨u, hu, hPu, hsent⟩ := hP w (ws ++ ws') s (busOks ws.length ++ rest) h hin
    obtain ⟨t, hrun, ht, hsent'⟩ := ih hPu hsent.inbox
    refine ⟨t, fun n => (run_of_next _ s u hu).trans (hrun n), ht, hsent'.cfg.trans hsent.cfg, ?_, hsent'.inbox⟩
    rw [hsent'.trace, hsent.trace]
    simp [transfers]

/-- The words `ws` of step `i`, which is `st`, are still to be sent. -/
def InStep (st : ScriptStep) (i : Byte) (ws : List BusWord) (s : State) : Prop :=
  s.stepIdx = i ∧ ∃ left, s.Sending st left ∧ ws = left.map (busEncode .data)

theorem inStep_sendsInOrder (st : ScriptStep) (i : Byte) : SendsInOrder (InStep st i) := by
  rintro w ws s rest ⟨rfl, left, hsend, hws⟩ hin
  obtain ⟨d, left, rfl, rfl, rfl⟩ := List.map_eq_cons_iff.mp hws.symm
  obtain ⟨t, ht, hsend', hidx, hsent⟩ := hsend.step_data (sees_of_head hin rfl)
  exact ⟨t, ht, ⟨hidx, left, hsend', rfl⟩, hsent⟩

/-- Settles O56: `begin_step` sends the Command word, and a run over the transfers sends the data bytes that are left. -/
theorem stepSendsItsWordsInOrder : Obligations.StepSendsItsWordsInOrder := by
  intro s st rest hv hrom hused hst hp hin
  obtain ⟨q, hq⟩ := (seqOf_isSome_iff s.seq).mpr hused
  obtain ⟨s1, hbegin, hsend, hidx, hsent⟩ := beginStep_sending hv hrom hq hst hp
  have hlen : (st.data.map (busEncode .data)).length = st.data.length := List.length_map _
  obtain ⟨t, hrun, ⟨hidx', left, hend, hleft⟩, hsent'⟩ :=
    (inStep_sendsInOrder st s.stepIdx).run (ws := st.data.map (busEncode .data)) (ws' := []) (rest := rest)
      ⟨hidx, st.data, hsend, List.append_nil _⟩ (by rw [hsent.inbox, hlen, hin])
  obtain rfl : left = [] := List.map_eq_nil_iff.mp hleft.symm
  refine ⟨s1, t, hbegin, ?_, ?_, hsent'.inbox, hidx', hend.curLen, ?_, ?_⟩
  · have := hrun 0
    rw [Nat.zero_add, hlen] at this
    exact this
  · rw [hsent'.trace, hsent.trace]
    simp [transfers]
  · rw [hend.romPtr, hsent'.cfg, hsent.cfg, hidx']
  · rcases hend.word with ⟨hseq, h0, hnil⟩ | ⟨hseq, hk, hdrop⟩
    · exact ⟨fun _ => ⟨hseq, h0⟩, fun hne => absurd hnil.symm hne⟩
    · have hlast := List.drop_eq_nil_iff.mp hdrop.symm
      exact ⟨fun hnil => by simp [hnil] at hk, fun _ => ⟨hseq, by omega⟩⟩

/-! ### The whole script, up to a failure -/

/-- The words of a script from step `i` on begin with those of step `i` (R127). -/
theorem scriptWords_drop {l : List ScriptStep} {i : Nat} {st : ScriptStep} (h : l[i]? = some st) :
    scriptWords (l.drop i)
      = busEncode .command st.cmd :: (st.data.map (busEncode .data) ++ scriptWords (l.drop (i + 1))) := by
  obtain ⟨hi, rfl⟩ := List.getElem?_eq_some_iff.mp h
  rw [List.drop_eq_getElem_cons hi]
  rfl

/-- The words `ws` of the script are still to be sent: those of the data bytes that are left, and the later steps'. -/
def InScript (ws : List BusWord) (s : State) : Prop :=
  s.Inv ∧ ∃ st left, s.Sending st left
    ∧ ws = left.map (busEncode .data) ++ scriptWords (s.cfg.script.drop (s.stepIdx.toNat + 1))

theorem inScript_sendsInOrder : SendsInOrder InScript := by
  rintro w ws s rest ⟨hi, st, left, hsend, hws⟩ hin
  cases left with
  | cons d left =>
    obtain ⟨t, ht, hsend', hidx, hsent⟩ := hsend.step_data (sees_of_head hin rfl)
    rw [List.map_cons, List.cons_append, List.cons.injEq] at hws
    obtain ⟨rfl, rfl⟩ := hws
    exact ⟨t, ht, ⟨(step_move s t ht).inv hi, st, left, hsend', by rw [hsent.cfg, hidx]⟩, hsent⟩
  | nil =>
    cases hst' : s.cfg.script[s.stepIdx.toNat + 1]? with
    | none => simp [List.drop_eq_nil_iff.mpr (List.getElem?_eq_none_iff.mp hst'), scriptWords] at hws
    | some st' =>
      rw [scriptWords_drop hst'] at hws
      obtain ⟨t, ht, hsend', hidx, hsent⟩ := hsend.step_next hst' (sees_of_head hin rfl)
      obtain ⟨rfl, rfl⟩ := List.cons.inj hws
      exact ⟨t, ht, ⟨(step_move s t ht).inv hi, st', st'.data, hsend', by rw [hsent.cfg, hidx]⟩, hsent⟩

/-- The last Tick of the sleep-out settle sends the first word of the script, and the others are still to be sent (R153). -/
theorem State.Inv.step_firstWord {s : State} {rest : List Event} (hi : s.Inv) (hseq : s.seq = 0x6#4)
    (hcnt : s.delayCnt = 1#8) (hs : s.Sees .tick rest) :
    ∃ w ws t, scriptWords s.cfg.script = w :: ws ∧ step s = .next t ∧ InScript ws t ∧ s.SentTo [w] rest t := by
  have hpos : 0 < s.cfg.script.length := (s.cfg.valid_nSteps hi.cfgValid).1.trans_lt' (by decide)
  obtain ⟨st, hst⟩ : ∃ st, s.cfg.script[0]? = some st := ⟨_, List.getElem?_eq_getElem hpos⟩
  obtain ⟨t, ht, hsend, hidx, hsent⟩ :=
    beginStep_sending (s := { s.taking rest with delayCnt := 0#8, stepIdx := 0#8, romPtr := 0#16 }) hi.cfgValid
      hi.romHolds ((seqOf_eq_some_iff _ .xDlySlp).mpr hseq) hst (entryAt_zero hi.cfgValid).2
  have hstep : step s = .next t := (step_beginScript hseq hcnt hs).trans ht
  exact ⟨_, _, t, scriptWords_drop hst, hstep,
    ⟨(step_move s t hstep).inv hi, st, st.data, hsend, by rw [hsent.cfg, hidx]; rfl⟩,
    hsent.cfg, hsent.trace, hsent.inbox⟩

/-- While a transfer is outstanding a PREPARE is running, and reset is deasserted (R187). -/
theorem State.Inv.prepare_of_busValid {s : State} (hi : s.Inv) (hv : s.busValid = true) :
    s.lc = .unprepared ∧ s.rstAssert = false := by
  obtain ⟨q, hq, ht⟩ := isTransfer_of_busValid hv
  have hp : q.isPrepare = true ∧ decide (q = .pDlyRst) = false := by revert ht; cases q <;> decide
  exact ⟨(hi.seqOk hq).prepare hp.1, (hi.seqOk hq).line.trans hp.2⟩

/-- Settles O58: the Tick sends the first word, the run over the successful transfers sends the others before the one that
fails, and `step_busErr` is the answer to that one. -/
theorem scriptStopsAtTheFirstFailure : Obligations.ScriptStopsAtTheFirstFailure := by
  intro s k e rest hi hseq hcnt hk1 hk hin
  obtain ⟨k, rfl⟩ := Nat.exists_eq_add_one.mpr hk1
  rw [Nat.add_sub_cancel] at hin
  obtain ⟨w, ws, s1, hwords, hstep, hs1, hsent1⟩ := hi.step_firstWord hseq hcnt (sees_of_head hin rfl)
  rw [hwords, List.length_cons] at hk
  have hlen : (ws.take k).length = k := List.length_take_of_le (by omega)
  obtain ⟨t, hrun, ⟨hit, st, left, hsend, -⟩, hsent⟩ :=
    inScript_sendsInOrder.run (ws := ws.take k) (ws' := ws.drop k) (rest := .busDone (.err e) :: rest)
      (by rwa [List.take_append_drop]) (by rw [hsent1.inbox, hlen])
  have hfail := step_busErr hsend.busValid (sees_of_head hsent.inbox rfl)
  obtain ⟨hlc, hrst⟩ := hit.prepare_of_busValid hsend.busValid
  refine ⟨finish .busErr e 0#2 (t.taking rest).forgetController, ?_, ?_, rfl, rfl, hlc, hrst, rfl, rfl⟩
  · calc runFor (k + 1 + 1) s = runFor (k + 1) s1 := run_of_next _ s s1 hstep
      _ = runFor (1 + (ws.take k).length) s1 := by rw [hlen, Nat.add_comm]
      _ = runFor 1 t := hrun 1
      _ = _ := (run_one t).trans hfail
  · simp [hsent.trace, hsent1.trace, hwords, transfers, Status.code]

end Sys2Proof.Machine
end

section
/-! The delays (spec 60_exceptions.md R230 to R233) and the bring-up of 42_register_script.md R151 to R156: what the last Tick
of each delay does, and what the transport's answer to sleep-out leads to. -/

namespace Sys2Proof.Machine

/-! ### The Ticks of a delay (R231) -/

/-- What the rule of a delay state does when its delay ends (R184 to R186, R153, R156). -/
def SeqState.delayEnds : SeqState → State → Result
  | .pDlyPwr, s => .next (assertReset s)
  | .pDlyRst, s => .next (deassertReset s)
  | .pDlyPost, s => runBringup s
  | .xDlySlp, s => beginScript s
  | .xDlyFin, s => .next (declareReady s)
  | .idle, s | .pPwr, s | .xSlp, s | .xCmd, s | .xData, s | .uPwr, s => .next s

theorem onTick_of_isDelay {s : State} {q : SeqState} (hq : seqOf s.seq = some q) (hd : q.isDelay = true) :
    onTick s = countDown s q.delayEnds := by
  rw [onTick, withSeq_of_used s q _ hq]
  cases q with
  | pDlyPwr | pDlyRst | pDlyPost | xDlySlp | xDlyFin => rfl
  | _ => exact absurd hd Bool.false_ne_true

section
variable {s : State} {q : SeqState} {rest : List Event} (hq : seqOf s.seq = some q) (hd : q.isDelay = true)
  (hs : s.Sees .tick rest)
include hq hd hs

/-- A Tick that is not the last one lowers `delay_cnt`. -/
theorem step_tick_early (hcnt : 2 ≤ s.delayCnt.toNat) :
    step s = .next { s.taking rest with delayCnt := s.delayCnt - 1#8 } := by
  rw [step_of_sees s _ rest hs]
  exact (onTick_of_isDelay (s := s.taking rest) hq hd).trans (countDown_early _ _ hcnt)

/-- The last Tick goes on with the rule of the delay state. -/
theorem step_tick_last (hcnt : s.delayCnt = 1#8) : step s = q.delayEnds { s.taking rest with delayCnt := 0#8 } := by
  rw [step_of_sees s _ rest hs]
  exact (onTick_of_isDelay (s := s.taking rest) hq hd).trans (countDown_last _ _ hcnt)

end

/-! ### Sleep-out, the script's start, and the final settle -/

/-- Settles O34: an answered sleep-out starts the delay of R152 (`startDelay_eq`), and `step_busErr` is the answer to its
failure. -/
theorem sleepOutSent : Obligations.SleepOutSent := by
  intro s rest hseq
  refine ⟨fun hs => ?_, fun e hs => step_busErr ((busValid_iff s).mpr (.inl hseq)) hs⟩
  have hq : seqOf (s.taking rest).seq = some .xSlp := (seqOf_eq_some_iff _ .xSlp).mpr hseq
  rw [step_of_sees s _ rest hs]
  exact withSeq_of_used _ _ _ hq

/-- Settles O35: the step is `begin_step` at address 0, which answers where a header is mapped (`beginStep_of_header`) and
faults where none is (`beginStep_of_unmapped`). -/
theorem scriptBegins : Obligations.ScriptBegins := by
  intro s rest hseq hcnt hs
  have hq : seqOf s.seq = some .xDlySlp := (seqOf_eq_some_iff _ .xDlySlp).mpr hseq
  rw [step_beginScript hseq hcnt hs]
  exact ⟨fun c len hc hl => beginStep_of_header _ c len .xDlySlp hq hc hl,
    beginStep_of_unmapped { s.taking rest with delayCnt := 0#8, stepIdx := 0#8, romPtr := 0#16 }⟩

/-- The one move that makes `lc` `Prepared` is the end of the final settle (R156). -/
theorem Move.seq_of_prepared {s t : State} (m : Move s t) (ht : t.lc = .prepared) (hs : s.lc ≠ .prepared) :
    s.seq = 0x9#4 := by
  cases m with
  | ready _ _ hq => exact (seqOf_eq_some_iff _ .xDlyFin).mp hq
  | enabled | disabled | poweredOff | reset => exact absurd ht (by simp)
  | _ => exact absurd ht hs

/-- Settles O36: the last Tick in `X_DLY_FIN` is `declareReady` (`step_tick_last`), and no other move makes `lc` `Prepared`
(`Move.seq_of_prepared`). -/
theorem finalSettleEnds : Obligations.FinalSettleEnds :=
  ⟨fun s _ hseq hcnt hs => step_tick_last ((seqOf_eq_some_iff s.seq .xDlyFin).mpr hseq) rfl hs hcnt,
    fun s t h => (step_move s t h).seq_of_prepared⟩

end Sys2Proof.Machine
end

section
/-! The bring-up as a run (spec 42_register_script.md R154; 43_lifecycle.md R194; 70_reset_and_hazards.md R266): what a PREPARE
adds to the trace when every collaborator succeeds. -/

namespace Sys2Proof.Machine

/-! ### Runs over a list of inputs -/

/-- A run of as many steps as there are inputs in `es` leads from `s` to `t`, and goes on from there; it adds the outputs
`os` to the trace. -/
structure State.RunsOver (s : State) (es : List Event) (os : List OutEvent) (t : State) : Prop where
  run   : ∀ n, runFor (n + es.length) s = runFor n t
  cfg   : t.cfg = s.cfg
  trace : t.trace = s.trace ++ os

section
variable {s t u : State} {es es' : List Event} {os os' : List OutEvent}

theorem State.RunsOver.of_step (e : Event) (h : step s = .next t) : s.RunsOver [e] t.outs t :=
  ⟨fun n => run_of_next n s t h, (step_move s t h).cfg_eq, (step_move s t h).trace_eq⟩

theorem State.RunsOver.trans (h : s.RunsOver es os t) (h' : t.RunsOver es' os' u) :
    s.RunsOver (es ++ es') (os ++ os') u where
  run n := by rw [List.length_append, Nat.add_comm es.length, ← Nat.add_assoc, h.run, h'.run]
  cfg := h'.cfg.trans h.cfg
  trace := by rw [h'.trace, h.trace, List.append_assoc]

theorem State.RunsOver.runFor_eq (h : s.RunsOver es os t) : runFor es.length s = .next t := by
  have h0 := h.run 0
  rwa [Nat.zero_add] at h0

/-- A run keeps the invariant. -/
theorem State.Inv.runFor {k : Nat} (hi : s.Inv) (h : runFor k s = .next t) : t.Inv := by
  induction k generalizing s with
  | zero => exact Host.Outcome.next.inj h ▸ hi
  | succ k ih =>
    obtain ⟨u, hu⟩ := invariantStatesNeverStop s hi
    exact ih ((step_move s u hu).inv hi) ((run_of_next k s u hu).symm.trans h)

end

/-! ### A delay as a run (R230, R231) -/

theorem ticks_succ_eq_append (n : Nat) : ticks (n + 1) = ticks n ++ [.tick] := List.replicate_succ'

/-- A delay of `n` Ticks is ahead, and these are the next inputs, before `rest`. -/
structure State.InDelay (s : State) (q : SeqState) (n : Nat) (rest : List Event) : Prop where
  seq     : seqOf s.seq = some q
  isDelay : q.isDelay = true
  cnt     : s.delayCnt.toNat = n
  inbox   : s.inbox = ticks n ++ rest

theorem startDelay_inDelay {s : State} {x : SeqState} {n : Nat} {rest : List Event} (hd : x.isDelay = true) (hn : n < 255)
    (hin : s.inbox = ticks (n + 1) ++ rest) : (startDelay n x s).InDelay x (n + 1) rest :=
  ⟨seqOf_code x, hd, by simp; omega, hin⟩

section
variable {s t : State} {q : SeqState} {n : Nat} {rest : List Event}

/-- The Ticks before the last one lower `delay_cnt` and do nothing else. -/
theorem State.InDelay.runsOver_early (h : s.InDelay q (n + 2) rest) :
    s.RunsOver (ticks (n + 1)) [] { s.taking (.tick :: rest) with delayCnt := 1#8 } := by
  induction n generalizing s with
  | zero =>
    have hstep := step_tick_early h.seq h.isDelay (sees_of_head h.inbox rfl) h.cnt.ge
    have hcnt : s.delayCnt - 1#8 = 1#8 := by
      apply BitVec.eq_of_toNat_eq
      simp [BitVec.toNat_sub, h.cnt]
    rw [hcnt] at hstep
    exact .of_step .tick hstep
  | succ n ih =>
    have hstep := step_tick_early h.seq h.isDelay (sees_of_head h.inbox rfl) (by rw [h.cnt]; omega)
    have hcnt : (s.delayCnt - 1#8).toNat = n + 2 := by
      have := h.cnt
      simp [BitVec.toNat_sub]
      omega
    have hrest : State.InDelay { s.taking (ticks (n + 2) ++ rest) with delayCnt := s.delayCnt - 1#8 } q (n + 2) rest :=
      ⟨h.seq, h.isDelay, hcnt, rfl⟩
    exact (State.RunsOver.of_step .tick hstep).trans (ih hrest)

/-- A whole delay: the last Tick goes on with the rule of the delay state. -/
theorem State.InDelay.runsOver (h : s.InDelay q n rest) (hn : 2 ≤ n)
    (hend : q.delayEnds { s.taking rest with delayCnt := 0#8 } = .next t) : s.RunsOver (ticks n) t.outs t := by
  obtain ⟨n, rfl⟩ := Nat.exists_eq_add_of_le' hn
  have hlast := step_tick_last (s := { s.taking (.tick :: rest) with delayCnt := 1#8 }) h.seq h.isDelay
    (sees_of_head rfl rfl) rfl
  rw [ticks_succ_eq_append]
  exact h.runsOver_early.trans (.of_step .tick (hlast.trans hend))

end

/-! ### The stages of a PREPARE (R194) -/

section
variable {s : State} {rest : List Event}

/-- PREPARE is accepted where it is legal (R182). -/
theorem step_prepare (hseq : s.seq = 0x0#4) (hlc : s.lc = .unprepared) (hin : s.inbox = .req 0b001#3 :: rest) :
    step s = .next (((s.taking rest).emit (.pwrReq true)).goto .pPwr) := by
  have hq : seqOf (s.taking rest).seq = some .idle := (seqOf_eq_some_iff _ .idle).mpr hseq
  have hlegal : legal (s.taking rest).lc .prepare = true := by rw [taking_lc, hlc]; rfl
  rw [step_request_of_idle hseq hin]
  exact (request_of_idle _ _ _ hq).trans (congrArg _ (performIfLegal_of_legal _ _ _ hlegal))

/-- The supply's answer starts the power settle (R183). -/
theorem step_poweredOn (hq : seqOf s.seq = some .pPwr) (hs : s.Sees (.pwrDone .ok) rest) :
    step s = .next (startDelay tPwrMs .pDlyPwr (s.taking rest)) := by
  rw [step_of_sees s _ rest hs]
  exact withSeq_of_used (s.taking rest) _ _ hq

/-- Power on (R182, R183). -/
theorem prepare_runsOver_power (hseq : s.seq = 0x0#4) (hlc : s.lc = .unprepared)
    (hin : s.inbox = .req 0b001#3 :: .pwrDone .ok :: (ticks 121 ++ rest)) :
    ∃ t, s.RunsOver [.req 0b001#3, .pwrDone .ok] [.pwrReq true] t ∧ t.InDelay .pDlyPwr 121 rest := by
  obtain ⟨t, ht, hq, hin⟩ : ∃ t, s.RunsOver [.req 0b001#3] [.pwrReq true] t ∧ seqOf t.seq = some .pPwr
      ∧ t.inbox = .pwrDone .ok :: (ticks 121 ++ rest) :=
    ⟨_, .of_step _ (step_prepare hseq hlc hin), rfl, rfl⟩
  have hpwr := step_poweredOn hq (sees_of_head hin rfl)
  exact ⟨_, ht.trans (.of_step _ hpwr), startDelay_inDelay rfl (by decide) rfl⟩

/-- The reset pulse and the sleep-out word (R184 to R186, R151). -/
theorem State.InDelay.runsOver_reset
    (h : s.InDelay .pDlyPwr 121 (ticks (s.cfg.tRstMs + 1) ++ (ticks 121 ++ rest))) (hv : s.cfg.valid = true) :
    ∃ t, s.RunsOver (ticks 121 ++ (ticks (s.cfg.tRstMs + 1) ++ ticks 121))
        [.rstSet true, .rstSet false, .busXfer (busEncode .command s.cfg.slpoutCmd)] t
      ∧ t.seq = 0x5#4 ∧ t.inbox = rest := by
  obtain ⟨hlo, hhi, -⟩ := s.cfg.valid_ranges hv
  have hbyte : s.cfg.tRstMs < 255 := by omega
  obtain ⟨t, ht, hpulse⟩ : ∃ t, s.RunsOver (ticks 121) [.rstSet true] t
      ∧ t.InDelay .pDlyRst (s.cfg.tRstMs + 1) (ticks 121 ++ rest) :=
    ⟨_, h.runsOver (by decide) rfl, startDelay_inDelay rfl hbyte rfl⟩
  obtain ⟨u, hu, hpost⟩ : ∃ u, t.RunsOver (ticks (s.cfg.tRstMs + 1)) [.rstSet false] u ∧ u.InDelay .pDlyPost 121 rest :=
    ⟨_, hpulse.runsOver (by omega) rfl, startDelay_inDelay rfl (by decide) rfl⟩
  have hend := execBwCmd_of_used u.cfg.slpoutCmd { u.taking rest with delayCnt := 0#8 } .pDlyPost hpost.seq
  obtain ⟨w, hw, hseq, hin⟩ : ∃ w, u.RunsOver (ticks 121) [.busXfer (busEncode .command u.cfg.slpoutCmd)] w
      ∧ w.seq = 0x5#4 ∧ w.inbox = rest :=
    ⟨_, hpost.runsOver (by decide) hend, rfl, rfl⟩
  rw [hu.cfg, ht.cfg] at hw
  exact ⟨w, ht.trans (hu.trans hw), hseq, hin⟩

/-- The sleep-out settle and the first word of the script (R152, R153). -/
theorem State.Inv.runsOver_firstWord (hi : s.Inv) (hseq : s.seq = 0x5#4) (hin : s.inbox = busOks 1 ++ (ticks 121 ++ rest)) :
    ∃ w ws t, scriptWords s.cfg.script = w :: ws ∧ s.RunsOver (busOks 1 ++ ticks 121) [.busXfer w] t ∧ InScript ws t
      ∧ t.inbox = rest := by
  obtain ⟨t, ht, hdelay⟩ : ∃ t, s.RunsOver (busOks 1) [] t ∧ t.InDelay .xDlySlp 121 rest :=
    ⟨_, .of_step _ ((sleepOutSent s _ hseq).1 (sees_of_head hin rfl)), rfl, rfl, rfl, rfl⟩
  have hearly := ht.trans hdelay.runsOver_early
  obtain ⟨w, ws, u, hwords, hstep, hu, hsent⟩ := (hi.runFor hearly.runFor_eq).step_firstWord
    ((seqOf_eq_some_iff _ .xDlySlp).mp hdelay.seq) rfl (sees_of_head rfl rfl)
  refine ⟨w, ws, u, ?_, ?_, hu, hsent.inbox⟩
  · rw [← hwords]
    exact (congrArg _ (congrArg _ ht.cfg)).symm
  · have hlast : State.RunsOver _ [.tick] [.busXfer w] u := ⟨fun n => run_of_next n _ u hstep, hsent.cfg, hsent.trace⟩
    exact hearly.trans hlast

/-- After the last word of the last step the script is done (R126, R155). -/
theorem InScript.step_done (h : InScript [] s) (hs : s.Sees (.busDone .ok) rest) :
    ∃ p k, step s = .next (scriptDone { s.takingAt rest p k with stepIdx := s.stepIdx + 1#8 }) := by
  obtain ⟨-, st, left, hsend, hws⟩ := h
  obtain ⟨hleft, hlater⟩ := List.append_eq_nil_iff.mp hws.symm
  obtain rfl := List.map_eq_nil_iff.mp hleft
  have hlast : s.cfg.script.length ≤ s.stepIdx.toNat + 1 := by
    cases hst : s.cfg.script[s.stepIdx.toNat + 1]? with
    | none => exact List.getElem?_eq_none_iff.mp hst
    | some st' => simp [scriptWords_drop hst] at hlater
  have hi : s.stepIdx.toNat < s.cfg.script.length := (List.getElem?_eq_some_iff.mp hsend.entry).1
  have h255 : s.cfg.script.length ≤ 255 := (s.cfg.valid_nSteps hsend.cfgValid).2
  have hn : (s.stepIdx + 1#8).toNat = s.cfg.nSteps := by
    rw [Config.nSteps]
    simp [BitVec.toNat_add]
    omega
  obtain ⟨p, k, hstep, -⟩ := hsend.step_last hs
  exact ⟨p, k, hstep.trans (nextStep_of_last (s.takingAt rest p k) hn)⟩

/-- The words of the script that are left, and the final settle (R127, R155, R156). -/
theorem InScript.runsOver_script {ws : List BusWord} (h : InScript ws s)
    (hin : s.inbox = busOks (ws.length + 1) ++ (ticks 121 ++ rest)) :
    ∃ t, s.RunsOver (busOks (ws.length + 1) ++ ticks 121) (transfers ws ++ [.respond 0b000#3 0 0b00#2]) t := by
  have hsplit : busOks (ws.length + 1) = busOks ws.length ++ [.busDone .ok] := List.replicate_succ'
  rw [hsplit, List.append_assoc] at hin
  obtain ⟨t, hrun, hend, hsent⟩ := inScript_sendsInOrder.run (ws := ws) (ws' := []) (by rwa [List.append_nil]) hin
  have ht : s.RunsOver (busOks ws.length) (transfers ws) t :=
    ⟨fun n => by rw [busOks, List.length_replicate]; exact hrun n, hsent.cfg, hsent.trace⟩
  obtain ⟨p, k, hdone⟩ := hend.step_done (sees_of_head hsent.inbox rfl)
  obtain ⟨u, hu, hfin⟩ : ∃ u, t.RunsOver [.busDone .ok] [] u ∧ u.InDelay .xDlyFin 121 rest :=
    ⟨_, .of_step _ hdone, startDelay_inDelay rfl (by decide) rfl⟩
  have hready := hfin.runsOver (by decide) rfl
  rw [hsplit, ← List.append_nil (transfers ws)]
  exact ⟨_, (ht.trans hu).trans hready⟩

/-- A PREPARE in which every collaborator succeeds adds the trace of R194. -/
theorem State.Inv.prepare_runsOver (hi : s.Inv) (hseq : s.seq = 0x0#4) (hlc : s.lc = .unprepared)
    (hin : s.inbox = prepareInputs s.cfg ++ rest) :
    ∃ t, s.RunsOver (prepareInputs s.cfg) (prepareTrace s.cfg) t := by
  simp only [prepareInputs, List.cons_append, List.append_assoc] at hin
  obtain ⟨t, ht, hdelay⟩ := prepare_runsOver_power hseq hlc hin
  rw [← ht.cfg] at hdelay
  obtain ⟨u, hu, hseq, hin⟩ := hdelay.runsOver_reset (by rw [ht.cfg]; exact hi.cfgValid)
  have hstu := ht.trans hu
  obtain ⟨w, ws, v, hwords, hv, hscript, hin⟩ := (hi.runFor hstu.runFor_eq).runsOver_firstWord hseq hin
  rw [hu.cfg, ht.cfg] at hwords
  rw [ht.cfg, hwords] at hin
  obtain ⟨z, hz⟩ := hscript.runsOver_script hin
  have hall := hstu.trans (hv.trans hz)
  rw [ht.cfg] at hall
  refine ⟨z, ?_⟩
  simpa [prepareInputs, prepareTrace, hwords, transfers] using hall

end

/-! ### The order of the words (R154, R266) -/

theorem scriptWords_append (l l' : List ScriptStep) : scriptWords (l ++ l') = scriptWords l ++ scriptWords l' := by
  induction l with
  | nil => rfl
  | cons st rest ih => simp [scriptWords, ih]

/-- The words of a framed script, phase by phase. -/
theorem scriptWords_framed (c : Config) (B0 B1 : List ScriptStep) :
    scriptWords (c.framed B0 B1) = stepWords (c.bankStep c.bank0Sel) ++ scriptWords B0
      ++ stepWords (c.bankStep c.bank1Sel) ++ scriptWords B1 ++ stepWords (c.bankStep bankOffSel)
      ++ [busEncode .command c.colmodCmd, busEncode .data c.colmodArg, busEncode .command c.disponCmd] := by
  simp [Config.framed, scriptWords_append, scriptWords, stepWords, Config.colmodStep, Config.disponStep]

/-- Settles O59: the run adds the trace of R194, and a valid script is framed (`Config.exists_framed_of_passes`), so its words
are those of the phases. -/
theorem bringUpOrder : Obligations.BringUpOrder := by
  intro s rest hi hseq hlc hin
  obtain ⟨t, ht⟩ := hi.prepare_runsOver hseq hlc hin
  obtain ⟨B0, B1, hB, hframed⟩ := s.cfg.exists_framed_of_passes (s.cfg.valid_passes hi.cfgValid)
  refine ⟨t, B0, B1, ht.runFor_eq, hB, ?_⟩
  rw [ht.trace, prepareTrace, hframed, scriptWords_framed]
  simp [transfers, bankOffSel]

end Sys2Proof.Machine
end

section
/-! The host operations in `IDLE` (spec 43_lifecycle.md R180 to R193): the legality table, and that a request is performed where
the table allows it and refused elsewhere. -/

namespace Sys2Proof.Machine

/-! ### The legality table (R181) -/

theorem legal_iff (lc : Lifecycle) (op : HostOp) : legal lc op = true ↔
    (op = .prepare ∧ lc = .unprepared) ∨ (op = .enable ∧ (lc = .prepared ∨ lc = .disabled))
      ∨ (op = .disable ∧ lc = .enabled) ∨ (op = .unprepare ∧ lc ≠ .enabled) ∨ op = .getModes := by
  cases op <;> cases lc <;> decide

/-! ### Accepting a request (R180) -/

/-- What a legal operation does when its request is accepted (R182, R188, R189, R191, R193). -/
def performOp : HostOp → State → State
  | .prepare, s => (s.emit (.pwrReq true)).goto .pPwr
  | .enable, s => finish .ok 0 0#2 { s with lc := .enabled }
  | .disable, s => finish .ok 0 0#2 { s with lc := .disabled }
  | .unprepare, s => (s.emit (.pwrReq false)).goto .uPwr
  | .getModes, s => finish .ok 0 1#2 s

/-- Every named host code is a request for its operation. -/
theorem exec_hostOp (o : HostOp) (s : State) :
    exec (decodeHostCode o.code) s = request o.code (performIfLegal o (performOp o)) s := by
  cases o <;> rfl

section
variable {s : State} {o : HostOp} (hseq : s.seq = 0x0#4)
include hseq

theorem exec_of_legal (h : legal s.lc o = true) : exec (decodeHostCode o.code) s = .next (performOp o s) := by
  rw [exec_hostOp, request_of_idle _ _ s ((seqOf_eq_some_iff _ .idle).mpr hseq), performIfLegal_of_legal _ _ s h]

theorem exec_of_illegal (h : ¬ legal s.lc o = true) :
    exec (decodeHostCode o.code) s = .next (s.answered 0b011#3 0 0b00#2) := by
  rw [exec_hostOp, request_of_idle _ _ s ((seqOf_eq_some_iff _ .idle).mpr hseq),
    performIfLegal_of_illegal _ _ s (Bool.not_eq_true _ ▸ h)]
  rfl

end

/-- An operation that is over is answered OK, and one that waits for the supply leaves `last_status` (R26). -/
theorem performOp_lastStatus (o : HostOp) (s : State) :
    ((performOp o s).seq = 0x0#4 → (performOp o s).lastStatus = 0b000#3)
      ∧ ((performOp o s).seq ≠ 0x0#4 → (performOp o s).lastStatus = s.lastStatus) := by
  cases o with
  | prepare | unprepare => exact ⟨fun h => by simp [performOp, SeqState.code] at h, fun _ => rfl⟩
  | enable | disable | getModes => exact ⟨fun _ => rfl, fun h => absurd rfl h⟩

/-- Settles O21: the table is `legal_iff`; a request that is seen is taken in `IDLE`, where `request_refuseReserved_of_idle`,
`exec_of_illegal` and `exec_of_legal` are its three outcomes. -/
theorem requestDecode : Obligations.RequestDecode := by
  refine ⟨legal_iff, fun s op rest hs => ?_⟩
  have hidle : (s.taking rest).seq = 0x0#4 := (seqOf_eq_some_iff _ .idle).mp (Sees.idle s op rest hs)
  have hstep : step s = exec (decodeHostCode op) (s.taking rest) := step_of_sees s _ rest hs
  rw [hstep]
  constructor
  · rintro (rfl | rfl | rfl) <;> exact request_refuseReserved_of_idle _ _ hidle
  · rintro o rfl
    refine ⟨fun h => exec_of_illegal hidle (Bool.not_eq_true _ ▸ h), fun h => ⟨rfl, _, exec_of_legal hidle h, ?_⟩⟩
    exact performOp_lastStatus o (s.taking rest)

/-! ### The five operations -/

/-- Settles O14: PREPARE is legal in `Unprepared` alone. -/
theorem prepareRequestsPower : Obligations.PrepareRequestsPower := fun s hseq =>
  ⟨fun h => exec_of_legal (o := .prepare) hseq (by simp [legal_iff, h]),
    fun h => exec_of_illegal (o := .prepare) hseq (by simp [legal_iff, h])⟩

/-- Settles O15: ENABLE is legal in `Prepared` and in `Disabled`. -/
theorem enableIsAnsweredAtOnce : Obligations.EnableIsAnsweredAtOnce :=
  ⟨rfl, fun s hseq => ⟨fun h => exec_of_legal (o := .enable) hseq (by simp [legal_iff, h]),
    fun h => exec_of_illegal (o := .enable) hseq (by rcases h with h | h <;> simp [legal_iff, h])⟩⟩

/-- Settles O16: DISABLE is legal in `Enabled` alone. -/
theorem disableIsAnsweredAtOnce : Obligations.DisableIsAnsweredAtOnce :=
  ⟨rfl, fun s hseq => ⟨fun h => exec_of_legal (o := .disable) hseq (by simp [legal_iff, h]),
    fun h => exec_of_illegal (o := .disable) hseq (by simp [legal_iff, h])⟩⟩

/-- Settles O17: UNPREPARE is legal outside `Enabled`. -/
theorem unprepareRequestsPowerOff : Obligations.UnprepareRequestsPowerOff := fun s hseq =>
  ⟨fun h => exec_of_legal (o := .unprepare) hseq (by simp [legal_iff, h]),
    fun h => exec_of_illegal (o := .unprepare) hseq (by simp [legal_iff, h])⟩

/-- The mode registers depend on the configuration alone (R30). -/
theorem modeData_of_cfg_eq {s t : State} (h : t.cfg = s.cfg) (a : ModeAddr) : t.modeData a = s.modeData a := by
  rw [State.modeData, State.modeData, h]

/-- Settles O18: GET_MODES is legal everywhere and keeps the configuration, which is all that the descriptor depends on. -/
theorem getModesAnswersOneMode : Obligations.GetModesAnswersOneMode :=
  ⟨rfl, fun s hseq => ⟨_, exec_of_legal (o := .getModes) hseq (by simp [legal_iff]), rfl, modeData_of_cfg_eq rfl⟩,
    fun s => ⟨rfl, rfl, rfl, fun t h => modeData_of_cfg_eq h⟩⟩

end Sys2Proof.Machine
end

section
/-! Power, the reset line, and how a PREPARE ends (spec 43_lifecycle.md R183 to R187, R192). -/

namespace Sys2Proof.Machine

/-! ### The supply's answers (R183, R192) -/

/-- The states in which a step drives the reset line: the ends of the power settle and of the reset pulse (R184, R185). -/
theorem Move.seq_of_rstSet {s t : State} (m : Move s t) {l : Bool} (hl : OutEvent.rstSet l ∈ t.outs) :
    s.seq = 0x2#4 ∨ s.seq = 0x3#4 := by
  cases m with
  | resetOn _ _ hq => exact .inl ((seqOf_eq_some_iff _ .pDlyPwr).mp hq)
  | resetOff _ _ hq => exact .inr ((seqOf_eq_some_iff _ .pDlyRst).mp hq)
  | _ => simp at hl

/-- Settles O30: the two answers are the cases of `onPwrDone` in `P_PWR`, which is none of the states in which a step drives
the bus or the reset line (`Move.seq_of_busXfer`, `Move.seq_of_rstSet`); PREPARE's first step is `prepareRequestsPower`. -/
theorem powerEnableAnswered : Obligations.PowerEnableAnswered := by
  refine ⟨fun s rest hseq => ?_, fun s t hseq h w l => ?_, fun s hseq hlc => ?_⟩
  · have hq : seqOf s.seq = some .pPwr := (seqOf_eq_some_iff _ .pPwr).mpr hseq
    refine ⟨step_poweredOn hq, fun e hs => ?_⟩
    rw [step_of_sees s _ rest hs]
    exact withSeq_of_used (s.taking rest) _ _ hq
  · have m := step_move s t h
    constructor
    · intro hw
      have hbus := m.seq_of_busXfer hw
      rw [hseq] at hbus
      exact absurd hbus (by decide)
    · intro hl
      have hrst := m.seq_of_rstSet hl
      rw [hseq] at hrst
      exact absurd hrst (by decide)
  · exact ⟨_, (prepareRequestsPower s hseq).1 hlc, rfl, rfl⟩

/-- Settles O37: the two answers are the cases of `onPwrDone` in `U_PWR`. -/
theorem powerDisableAnswered : Obligations.PowerDisableAnswered := by
  intro s rest hseq
  have hq : seqOf s.seq = some .uPwr := (seqOf_eq_some_iff _ .uPwr).mpr hseq
  refine ⟨fun hs => ?_, fun e hs => ?_⟩
  all_goals
    rw [step_of_sees s _ rest hs]
    exact withSeq_of_used (s.taking rest) _ _ hq

/-! ### The reset pulse and the settles around it (R184 to R186) -/

/-- Settles O31: the last Tick in `P_DLY_PWR` asserts reset (`step_tick_last`). -/
theorem powerSettleEnds : Obligations.PowerSettleEnds := fun s _ hseq hcnt hs =>
  step_tick_last ((seqOf_eq_some_iff s.seq .pDlyPwr).mpr hseq) rfl hs hcnt

/-- Settles O32: the last Tick in `P_DLY_RST` deasserts reset (`step_tick_last`), and R6 bounds `T_RST_MS` to 30 to 119, so
that the counter holds the pulse's length. -/
theorem resetPulseEnds : Obligations.ResetPulseEnds := by
  refine ⟨fun s _ hseq hcnt hs => step_tick_last ((seqOf_eq_some_iff s.seq .pDlyRst).mpr hseq) rfl hs hcnt,
    fun s hv => ?_⟩
  obtain ⟨hlo, hhi, -⟩ := s.cfg.valid_ranges hv
  refine ⟨?_, by omega, by omega⟩
  rw [delaying_delayCnt, BitVec.toNat_ofNat, Nat.mod_eq_of_lt (by omega)]

/-- Settles O33: the last Tick in `P_DLY_POST` runs the sleep-out word, which waits in `X_SLP`. -/
theorem postResetSettleEnds : Obligations.PostResetSettleEnds := by
  intro s rest hseq hcnt hs
  rw [step_runBringup hseq hcnt hs]
  exact execBwCmd_of_used s.cfg.slpoutCmd { s.taking rest with delayCnt := 0#8 } .pDlyPost
    ((seqOf_eq_some_iff _ .pDlyPost).mpr hseq)

/-! ### How a PREPARE ends (R187, R221, R222) -/

/-- Settles O54: outside `IDLE` and `U_PWR` the moves that respond are the failed power-enable, a failed transfer and the end
of the final settle; in each of their states the invariant has reset deasserted and `lc` `Unprepared`. -/
theorem outcomeOfPrepare : Obligations.OutcomeOfPrepare := by
  intro s t st e n hi hidle hoff h hr
  cases step_move s t h with
  | powerOnFailed e' _ _ hq =>
    have hok := hi.seqOk hq
    obtain ⟨rfl, -, rfl⟩ : st = 0b010#3 ∧ e = e' ∧ n = 0b00#2 := by simpa [Status.code] using hr
    exact ⟨hok.line, rfl, .inr ⟨.inr rfl, hok.prepare rfl⟩⟩
  | busFailed e' _ _ hq =>
    have hv : s.busValid = true := by rcases hq with hq | hq | hq <;> exact busValid_of_used hq
    obtain ⟨hlc, hrst⟩ := hi.prepare_of_busValid hv
    obtain ⟨rfl, -, rfl⟩ : st = 0b001#3 ∧ e = e' ∧ n = 0b00#2 := by simpa [Status.code] using hr
    exact ⟨hrst, rfl, .inr ⟨.inl rfl, hlc⟩⟩
  | ready _ _ hq =>
    obtain ⟨rfl, rfl, rfl⟩ : st = 0b000#3 ∧ e = 0 ∧ n = 0b00#2 := by simpa using hr
    exact ⟨(hi.seqOk hq).line, rfl, .inl ⟨rfl, rfl, rfl⟩⟩
  | enabled _ _ _ hq | disabled _ _ _ hq | modes _ _ _ hq | refusedSeq _ _ _ hq | refusedOp _ _ _ hq =>
    exact absurd ((seqOf_eq_some_iff _ .idle).mp hq) hidle
  | poweredOff _ _ hq | powerOffFailed _ _ _ hq => exact absurd ((seqOf_eq_some_iff _ .uPwr).mp hq) hoff
  | _ => simp at hr

end Sys2Proof.Machine
end

section
/-! A successful PREPARE to its end (spec 43_lifecycle.md R194, R195; 41_controller_driver.md R126): where the script leaves
its pointers, the state the run ends in, and the UNPREPARE that may follow. -/

namespace Sys2Proof.Machine

/-! ### The end of the script (R126, R155, R166) -/

/-- The pointers are behind the script, and `bus_word` is its last word, the Command word of DISPON. -/
structure State.AtScriptEnd (s : State) : Prop where
  stepIdx : s.stepIdx = BitVec.ofNat 8 s.cfg.nSteps
  romPtr  : s.romPtr = BitVec.ofNat 16 s.cfg.scriptBytes
  curLen  : s.curLen = 0#8
  byteIdx : s.byteIdx = 0#8
  busWord : s.busWord = busEncode .command s.cfg.disponCmd

/-- The last step of a valid script is DISPON (R166), and its entry, a header alone, ends the image (R51). -/
theorem State.Inv.lastEntry {s : State} (hi : s.Inv) {st : ScriptStep} (hst : s.cfg.script[s.stepIdx.toNat]? = some st)
    (hn : (s.stepIdx + 1#8).toNat = s.cfg.nSteps) :
    st = s.cfg.disponStep ∧ s.cfg.stepBase s.stepIdx.toNat + 2 = s.cfg.scriptBytes := by
  have hlt : s.stepIdx.toNat < s.cfg.script.length := (List.getElem?_eq_some_iff.mp hst).1
  have h255 : s.cfg.script.length ≤ 255 := (s.cfg.valid_nSteps hi.cfgValid).2
  have hsucc : s.stepIdx.toNat + 1 = s.cfg.script.length := by
    rw [Config.nSteps] at hn
    simp [BitVec.toNat_add] at hn
    omega
  have hdispon : s.cfg.script.reverse[0]? = some s.cfg.disponStep :=
    of_decide_eq_true (s.cfg.valid_passes hi.cfgValid .chkDisponLast)
  rw [List.getElem?_reverse (by omega), ← hsucc, Nat.add_sub_cancel, Nat.sub_zero, hst, Option.some.injEq] at hdispon
  subst hdispon
  have hend := s.cfg.stepBase_succ _ _ hst
  rw [hsucc] at hend
  exact ⟨rfl, hend.symm.trans s.cfg.stepBase_nSteps⟩

/-- Where the final settle begins, the script is at its end: DISPON has no data, so `X_DATA` does not lead there. -/
theorem Move.atScriptEnd {s t : State} (m : Move s t) (hi : s.Inv) (hs : s.seq ≠ 0x9#4) (ht : t.seq = 0x9#4) :
    t.AtScriptEnd := by
  cases m with
  | doneAfterCommand rest _ hq h0 hn =>
    obtain ⟨st, hst, hp, -, hk, hw⟩ := (placeOk_xCmd s hq).mp hi.placeOk
    obtain ⟨rfl, hend⟩ := hi.lastEntry hst hn
    refine ⟨?_, ?_, h0, hk, hw⟩
    · rw [scriptDone_stepIdx, scriptDone_cfg, taking_cfg, ← hn, BitVec.ofNat_toNat, BitVec.setWidth_eq]
    · rw [scriptDone_romPtr, scriptDone_cfg, taking_romPtr, taking_cfg, ← hend, ← hp, BitVec.ofNat_toNat,
        BitVec.setWidth_eq]
  | doneAfterData rest _ hq _ hn =>
    obtain ⟨st, hst, -, -, hk, -⟩ := (placeOk_xData s hq).mp hi.placeOk
    obtain ⟨rfl, -⟩ := hi.lastEntry hst hn
    exact absurd hk (Nat.not_lt_zero _)
  | waits | powerIgnored | busOkIgnored | busErrIgnored | ticks | tickIgnored => exact absurd ht hs
  | _ => simp [SeqState.code] at ht

/-! ### The run to its end -/

/-- The state in which a PREPARE leaves the block `s` when every collaborator succeeds, with `rest` still to come. -/
def State.afterPrepare (s : State) (rest : List Event) : State :=
  { s with
    lc := .prepared
    seq := 0x0#4
    stepIdx := BitVec.ofNat 8 s.cfg.nSteps
    romPtr := BitVec.ofNat 16 s.cfg.scriptBytes
    curLen := 0#8
    byteIdx := 0#8
    delayCnt := 0#8
    rstAssert := false
    lastStatus := 0b000#3
    busWord := busEncode .command s.cfg.disponCmd
    ctlKnown := true
    inbox := rest
    outs := [OutEvent.respond 0b000#3 0 0b00#2]
    trace := s.trace ++ prepareTrace s.cfg }

section
variable {s u : State} {rest : List Event}

/-- The words of the script that are left lead to the final settle, with the script at its end (R127, R155). -/
theorem InScript.runsOver_finalSettle {ws : List BusWord} (h : InScript ws s)
    (hin : s.inbox = busOks (ws.length + 1) ++ rest) :
    ∃ t, s.RunsOver (busOks (ws.length + 1)) (transfers ws) t ∧ t.seq = 0x9#4 ∧ t.delayCnt = 121#8 ∧ t.inbox = rest
      ∧ t.AtScriptEnd := by
  have hsplit : busOks (ws.length + 1) = busOks ws.length ++ [.busDone .ok] := List.replicate_succ'
  rw [hsplit, List.append_assoc] at hin
  obtain ⟨t, hrun, hend, hsent⟩ := inScript_sendsInOrder.run (ws := ws) (ws' := []) (by rwa [List.append_nil]) hin
  have ht : s.RunsOver (busOks ws.length) (transfers ws) t :=
    ⟨fun n => by rw [busOks, List.length_replicate]; exact hrun n, hsent.cfg, hsent.trace⟩
  obtain ⟨p, k, hdone⟩ := hend.step_done (sees_of_head hsent.inbox rfl)
  obtain ⟨hit, st, left, hsend, -⟩ := hend
  have hbusy : t.seq ≠ 0x9#4 := by rcases hsend.word with ⟨hseq, -⟩ | ⟨hseq, -⟩ <;> simp [hseq]
  rw [hsplit, ← List.append_nil (transfers ws)]
  exact ⟨_, ht.trans (.of_step _ hdone), rfl, rfl, rfl, (step_move _ _ hdone).atScriptEnd hit hbusy rfl⟩

/-- A PREPARE in which every collaborator succeeds reaches the final settle, with all of the trace of R194 but the answer. -/
theorem State.Inv.prepare_runsOver_finalSettle (hi : s.Inv) (hseq : s.seq = 0x0#4) (hlc : s.lc = .unprepared)
    (hin : s.inbox = prepareInputs s.cfg ++ rest) :
    ∃ es os t, prepareInputs s.cfg = es ++ ticks 121 ∧ prepareTrace s.cfg = os ++ [.respond 0b000#3 0 0b00#2]
      ∧ s.RunsOver es os t ∧ t.InDelay .xDlyFin 121 rest ∧ t.AtScriptEnd := by
  simp only [prepareInputs, List.cons_append, List.append_assoc] at hin
  obtain ⟨t, ht, hdelay⟩ := prepare_runsOver_power hseq hlc hin
  rw [← ht.cfg] at hdelay
  obtain ⟨u, hu, hseq, hin⟩ := hdelay.runsOver_reset (by rw [ht.cfg]; exact hi.cfgValid)
  have hstu := ht.trans hu
  obtain ⟨w, ws, v, hwords, hv, hscript, hin⟩ := (hi.runFor hstu.runFor_eq).runsOver_firstWord hseq hin
  rw [hu.cfg, ht.cfg] at hwords
  rw [ht.cfg, hwords] at hin
  obtain ⟨z, hz, hseq, hcnt, hin, hend⟩ := hscript.runsOver_finalSettle hin
  have hall := hstu.trans (hv.trans hz)
  rw [ht.cfg] at hall
  refine ⟨_, _, z, ?_, ?_, hall, ⟨(seqOf_eq_some_iff _ .xDlyFin).mpr hseq, rfl, by rw [hcnt]; rfl, hin⟩, hend⟩
  · simp [prepareInputs, hwords]
  · simp [prepareTrace, hwords, transfers]

/-- What the end of the final settle makes of a state at the script's end, on the run's way from `s`. -/
theorem State.AtScriptEnd.declareReady_eq (h : u.AtScriptEnd) (hcfg : u.cfg = s.cfg) (hrom : u.rom = s.rom)
    (hrst : u.rstAssert = false) (htrace : u.trace ++ [.respond 0b000#3 0 0b00#2] = s.trace ++ prepareTrace s.cfg) :
    declareReady { u.taking rest with delayCnt := 0#8 } = s.afterPrepare rest := by
  simp only [declareReady, finish_eq, State.answered, State.taking, State.afterPrepare, State.mk.injEq]
  simp [h.stepIdx, h.romPtr, h.curLen, h.byteIdx, h.busWord, hcfg, hrom, hrst, htrace, Status.code]

/-- A PREPARE in which every collaborator succeeds, with the state it ends in (R194). -/
theorem State.Inv.prepare_runsOver_afterPrepare (hi : s.Inv) (hseq : s.seq = 0x0#4) (hlc : s.lc = .unprepared)
    (hin : s.inbox = prepareInputs s.cfg ++ rest) :
    s.RunsOver (prepareInputs s.cfg) (prepareTrace s.cfg) (s.afterPrepare rest) := by
  obtain ⟨es, os, t, hes, hos, ht, hdelay, hend⟩ := hi.prepare_runsOver_finalSettle hseq hlc hin
  have hit := hi.runFor ht.runFor_eq
  have hrom : t.rom = s.rom := by rw [hit.romHolds, hi.romHolds, ht.cfg]
  have hrst : t.rstAssert = false := (hit.seqOk hdelay.seq).line
  have hready := ht.trans (hdelay.runsOver (by decide) rfl)
  rw [hend.declareReady_eq ht.cfg hrom hrst (by rw [ht.trace, List.append_assoc, hos])] at hready
  rw [hes, hos]
  exact hready

end

/-- Settles O57: the state that `State.Inv.prepare_runsOver_afterPrepare` gives. -/
theorem successfulPrepare : Obligations.SuccessfulPrepare := fun _ _ hi hseq hlc hin =>
  (hi.prepare_runsOver_afterPrepare hseq hlc hin).runFor_eq

/-! ### UNPREPARE after it (R195) -/

/-- A successful PREPARE requests the supply once, to be enabled (R194). -/
theorem count_pwrReq_prepareTrace (c : Config) (on : Bool) :
    (prepareTrace c).count (.pwrReq on) = if on = true then 1 else 0 := by
  have hwords : ∀ ws : List BusWord, (transfers ws).count (.pwrReq on) = 0 := fun ws => by
    rw [List.count_eq_zero]
    simp [transfers]
  cases on <;> simp [prepareTrace, hwords]

/-- A successful UNPREPARE: its request and the supply's answer (R191, R192). -/
theorem unprepare_runsOver {s : State} {rest : List Event} (hseq : s.seq = 0x0#4) (hlc : s.lc ≠ .enabled)
    (hin : s.inbox = .req 0b100#3 :: .pwrDone .ok :: rest) :
    ∃ t, s.RunsOver [.req 0b100#3, .pwrDone .ok] [.pwrReq false, .respond 0b000#3 0 0b00#2] t
      ∧ t.lc = .unprepared ∧ t.seq = 0x0#4 ∧ t.lastStatus = 0b000#3 ∧ t.rstAssert = s.rstAssert ∧ t.inbox = rest
      ∧ t.romPtr = s.romPtr := by
  have hreq := (step_request_of_idle hseq hin).trans ((unprepareRequestsPowerOff (s.taking _) hseq).1 hlc)
  have hoff := (powerDisableAnswered (performOp .unprepare (s.taking (.pwrDone .ok :: rest))) rest rfl).1
    (sees_of_head rfl rfl)
  exact ⟨_, (State.RunsOver.of_step (.req 0b100#3) hreq).trans (.of_step (.pwrDone .ok) hoff),
    rfl, rfl, rfl, rfl, rfl, rfl⟩

/-- Settles O60: the run of `State.Inv.prepare_runsOver_afterPrepare`, and then that of `unprepare_runsOver`. -/
theorem prepareThenUnprepare : Obligations.PrepareThenUnprepare := by
  intro s rest hi hseq hlc hin
  have hprepare := hi.prepare_runsOver_afterPrepare hseq hlc hin
  obtain ⟨t, ht, hlc', hseq', hstatus, hrst, hin', hptr⟩ :=
    unprepare_runsOver (s := s.afterPrepare (.req 0b100#3 :: .pwrDone .ok :: rest)) rfl (by simp [State.afterPrepare])
      rfl
  have hall := hprepare.trans ht
  have hrun := hall.runFor_eq
  rw [List.length_append] at hrun
  refine ⟨t, hrun, ?_, count_pwrReq_prepareTrace s.cfg true, count_pwrReq_prepareTrace s.cfg false, hlc', hseq', hstatus,
    hrst, hin', ?_⟩
  · rw [hall.trace, List.append_assoc]
  · have hbytes := s.cfg.valid_scriptBytes hi.cfgValid
    rw [hptr, State.afterPrepare, BitVec.toNat_ofNat, Nat.mod_eq_of_lt (by omega)]

end Sys2Proof.Machine
end

section
/-! The Ticks of a delay (spec 60_exceptions.md R230 to R232), and how a response ends its operation (R225, R226). -/

namespace Sys2Proof.Machine

/-! ### Delays (R231, R232) -/

/-- The five codes that the rules of R231 name are those of the delay states (R22, R24). -/
theorem exists_isDelay_of_seq {s : State}
    (h : s.seq = 0x2#4 ∨ s.seq = 0x3#4 ∨ s.seq = 0x4#4 ∨ s.seq = 0x6#4 ∨ s.seq = 0x9#4) :
    ∃ q, seqOf s.seq = some q ∧ q.isDelay = true := by
  rcases h with h | h | h | h | h <;> rw [h] <;> exact ⟨_, rfl, rfl⟩

/-- A count that has not run out falls by exactly the number of Ticks. -/
theorem toNat_sub_ofNat_of_le (c : Byte) {k : Nat} (h : k ≤ c.toNat) : (c - BitVec.ofNat 8 k).toNat = c.toNat - k := by
  rw [BitVec.toNat_sub, BitVec.toNat_ofNat]
  omega

/-- Settles O38: an early Tick is `step_tick_early`, and the last one is `step_tick_last` in each of the five states. -/
theorem tickCountsDown : Obligations.TickCountsDown := by
  intro s rest hs
  constructor
  · intro hseq hcnt
    obtain ⟨q, hq, hd⟩ := exists_isDelay_of_seq hseq
    exact ⟨_, step_tick_early hq hd hs hcnt, rfl, toNat_sub_ofNat_of_le s.delayCnt (by omega)⟩
  · intro hcnt
    have hlast (q : SeqState) (hd : q.isDelay = true) (hseq : s.seq = q.code) :
        step s = q.delayEnds { s.taking rest with delayCnt := 0#8 } :=
      step_tick_last ((seqOf_eq_some_iff _ q).mpr hseq) hd hs hcnt
    exact ⟨hlast .pDlyPwr rfl, hlast .pDlyRst rfl, hlast .pDlyPost rfl, hlast .xDlySlp rfl, hlast .xDlyFin rfl⟩

/-- The state of a delay after `k` of its Ticks, before the last one, with the inputs `rest` still to come. -/
def State.afterTicks (s : State) (k : Nat) (rest : List Event) : State :=
  { s with
    delayCnt := s.delayCnt - BitVec.ofNat 8 k
    inbox := rest
    outs := if k = 0 then s.outs else [] }

theorem afterTicks_zero (s : State) : s.afterTicks 0 s.inbox = s := by
  simp [State.afterTicks]

/-- One Tick and then `k` more are `k + 1` Ticks. -/
theorem afterTicks_succ (s : State) (k : Nat) (inbox rest : List Event) :
    State.afterTicks { s.taking inbox with delayCnt := s.delayCnt - 1#8 } k rest = s.afterTicks (k + 1) rest := by
  have hcnt : s.delayCnt - 1#8 - BitVec.ofNat 8 k = s.delayCnt - BitVec.ofNat 8 (k + 1) := by
    rw [BitVec.ofNat_add]
    ring
  simp [State.afterTicks, State.taking, hcnt]

/-- Ticks before the last one run by `step_tick_early`, each from the state the one before it left. -/
theorem runFor_ticks {s : State} {q : SeqState} {k : Nat} {rest : List Event} (hq : seqOf s.seq = some q)
    (hd : q.isDelay = true) (hk : k < s.delayCnt.toNat) (hin : s.inbox = ticks k ++ rest) :
    runFor k s = .next (s.afterTicks k rest) := by
  induction k generalizing s with
  | zero =>
    obtain rfl : s.inbox = rest := hin
    rw [afterTicks_zero]
    rfl
  | succ k ih =>
    have hstep := step_tick_early hq hd (sees_of_head hin rfl) (by omega)
    have hcnt : (s.delayCnt - 1#8).toNat = s.delayCnt.toNat - 1 := toNat_sub_ofNat_of_le s.delayCnt (by omega)
    rw [← afterTicks_succ s k (ticks k ++ rest)]
    exact (run_of_next k s _ hstep).trans (ih hq (by rw [hcnt]; omega) rfl)

/-- Settles O39: the run of `runFor_ticks`. -/
theorem delayTakesAllItsTicks : Obligations.DelayTakesAllItsTicks := by
  intro s k rest hseq hk hin
  obtain ⟨q, hq, hd⟩ := exists_isDelay_of_seq hseq
  exact ⟨_, runFor_ticks hq hd hk hin, rfl, toNat_sub_ofNat_of_le s.delayCnt hk.le⟩

/-! ### Responses (R225, R226) -/

/-- A step that responds ends with `finish`, from a state with no outputs yet. -/
theorem Move.eq_answered {s t : State} (m : Move s t) {st : StatusCode} {e : Nat} {n : BitVec 2}
    (hr : OutEvent.respond st e n ∈ t.outs) : ∃ u : State, u.outs = [] ∧ t = u.answered st e n := by
  cases m with
  | enabled | disabled | modes | refusedSeq | refusedOp | powerOnFailed | poweredOff | powerOffFailed | busFailed
  | ready =>
    obtain ⟨rfl, rfl, rfl⟩ := OutEvent.respond.inj (List.mem_singleton.mp hr)
    exact ⟨_, rfl, finish_eq ..⟩
  | _ => simp at hr

/-- Settles O46: the step ends with `finish` (`Move.eq_answered`), whose one output the response port shows. -/
theorem responsesEndTheOperation : Obligations.ResponsesEndTheOperation := by
  intro s t st e n h hr
  obtain ⟨u, hu, rfl⟩ := (step_move s t h).eq_answered hr
  have houts : (u.answered st e n).outs = [.respond st e n] := by simp [State.answered, hu]
  refine ⟨houts, rfl, rfl, ?_⟩
  rw [State.response, houts]
  rfl

end Sys2Proof.Machine
end

section
/-! Block reset and the hang (spec 70_reset_and_hazards.md R250 to R253, R271). -/

namespace Sys2Proof.Machine

/-! ### No answer, no progress (R271) -/

/-- `t` waits where `s` does: the operation, its word and the trace are the same, and no input has come that was not there
before. -/
structure State.StillWaits (s t : State) : Prop where
  seq     : t.seq = s.seq
  lc      : t.lc = s.lc
  busWord : t.busWord = s.busWord
  trace   : t.trace = s.trace
  inbox   : t.inbox ⊆ s.inbox

theorem State.StillWaits.refl (s : State) : s.StillWaits s := ⟨rfl, rfl, rfl, rfl, List.Subset.refl _⟩

theorem State.StillWaits.trans {s t u : State} (h : s.StillWaits t) (h' : t.StillWaits u) : s.StillWaits u :=
  ⟨h'.seq.trans h.seq, h'.lc.trans h.lc, h'.busWord.trans h.busWord, h'.trace.trans h.trace,
    List.Subset.trans h'.inbox h.inbox⟩

theorem Sees.mem {s : State} {e : Event} {rest : List Event} (h : s.Sees e rest) : e ∈ s.inbox := by
  obtain ⟨held, after, hin, -⟩ := h
  simp [hin]

theorem Sees.subset {s : State} {e : Event} {rest : List Event} (h : s.Sees e rest) : rest ⊆ s.inbox := by
  obtain ⟨held, after, hin, hrest, -⟩ := h
  simp [hin, hrest]

/-- An event that is seen and does not act is no request. -/
theorem Sees.not_req_of_not_acts {s : State} {e : Event} {rest : List Event} (h : s.Sees e rest) (ha : s.acts e = false) :
    ¬ ∃ op, e = .req op := by
  rintro ⟨op, rfl⟩
  rw [acts_of_used s .idle (Sees.idle s op rest h), actsOn_req] at ha
  exact absurd ha (by decide)

/-- An event that does not act is ignored from behind held requests as it is from the front (R42, R43). -/
theorem step_of_sees_not_acts {s : State} {q : SeqState} {e : Event} {rest : List Event} (h : s.Sees e rest)
    (hq : seqOf s.seq = some q) (ha : s.acts e = false) :
    step s = .next { s with inbox := rest, outs := [], ctlKnown := s.ctlKnown && !e.isBusErr } := by
  have hr := Sees.not_req_of_not_acts h ha
  calc step s = handle e (s.taking rest) := step_of_sees s e rest h
    _ = step { s with inbox := e :: rest } := (step_of_head { s with inbox := e :: rest } e rest rfl hr).symm
    _ = _ := step_of_not_acts { s with inbox := e :: rest } q hq e rest rfl ha hr

section
variable {s : State} {q : SeqState} (hq : seqOf s.seq = some q) (hn : ∀ e ∈ s.inbox, q.actsOn e = false)
include hq hn

/-- With no input that acts, a step ignores one or has none to take. -/
theorem step_stillWaits : ∃ t, step s = .next t ∧ s.StillWaits t := by
  cases htake : takeEnabled s.holds s.inbox with
  | none =>
    refine ⟨s.clearOuts, ?_, rfl, rfl, rfl, rfl, List.Subset.refl _⟩
    rw [step, stepOnce, htake]
    exact withSeq_of_used s q _ hq
  | some taken =>
    obtain ⟨e, rest⟩ := taken
    have hs : s.Sees e rest := sees_of_take s e rest htake (.inl ⟨q, hq⟩)
    have ha : s.acts e = false := (acts_of_used s q hq e).trans (hn e (Sees.mem hs))
    exact ⟨_, step_of_sees_not_acts hs hq ha, rfl, rfl, rfl, rfl, Sees.subset hs⟩

theorem runFor_stillWaits (n : Nat) : ∃ t, runFor n s = .next t ∧ s.StillWaits t := by
  induction n generalizing s with
  | zero => exact ⟨s, rfl, .refl s⟩
  | succ n ih =>
    obtain ⟨u, hu, hw⟩ := step_stillWaits hq hn
    obtain ⟨t, ht, hw'⟩ := ih (by rw [hw.seq, hq]) fun e he => hn e (hw.inbox he)
    exact ⟨t, (run_of_next n s u hu).trans ht, hw.trans hw'⟩

/-- A busy block stays busy, and takes no request. -/
theorem runFor_waits_busy (hb : q ≠ .idle) (n : Nat) : ∃ t, runFor n s = .next t ∧ t.seq = s.seq ∧ t.lc = s.lc
    ∧ t.busWord = s.busWord ∧ t.trace = s.trace ∧ t.reqReady = false := by
  obtain ⟨t, ht, hw⟩ := runFor_stillWaits hq hn n
  refine ⟨t, ht, hw.seq, hw.lc, hw.busWord, hw.trace, ?_⟩
  rw [reqReady_of_used (q := q) (by rw [hw.seq, hq]), decide_eq_false hb]

end

theorem isPower_of_pwrValid {s : State} (hv : s.pwrValid = true) : ∃ q, seqOf s.seq = some q ∧ q.isPower = true := by
  rcases (pwrValid_iff s).mp hv with h | h
  · exact ⟨.pPwr, (seqOf_eq_some_iff _ .pPwr).mpr h, rfl⟩
  · exact ⟨.uPwr, (seqOf_eq_some_iff _ .uPwr).mpr h, rfl⟩

/-- Settles O42: while an answer is outstanding nothing but that answer and a block reset acts (`eq_busDone_of_acts`,
`eq_pwrDone_of_acts`), and a run over inputs that do not act leaves the block waiting (`runFor_waits_busy`). -/
theorem noAnswerNoProgress : Obligations.NoAnswerNoProgress := by
  intro s n
  constructor
  · intro hv hans hreset
    obtain ⟨q, hq, ht⟩ := isTransfer_of_busValid hv
    refine runFor_waits_busy hq (fun e he => Bool.eq_false_iff.mpr fun ha => ?_)
      (by rintro rfl; exact Bool.false_ne_true ht) n
    obtain ⟨r, rfl⟩ := eq_busDone_of_acts ht ha (ne_of_mem_of_not_mem he hreset)
    exact hans r he
  · intro hv hans hreset
    obtain ⟨q, hq, hp⟩ := isPower_of_pwrValid hv
    refine runFor_waits_busy hq (fun e he => Bool.eq_false_iff.mpr fun ha => ?_)
      (by rintro rfl; exact Bool.false_ne_true hp) n
    obtain ⟨r, rfl⟩ := eq_pwrDone_of_acts hp ha (ne_of_mem_of_not_mem he hreset)
    exact hans r he

/-! ### Block reset (R250 to R253) -/

/-- Settles O10: the fields and the ports are those of `State.resetWith`; STATUS is `resetWith_status`, and the ROM is the
image by `read_romOf`. -/
theorem resetValues : Obligations.ResetValues := fun c =>
  ⟨rfl, rfl, rfl, rfl, rfl, rfl, rfl, rfl, rfl, rfl, rfl, resetWith_status c, fun _ => rfl, read_romOf c, rfl, rfl, rfl, rfl,
    rfl⟩

/-- Settles O11: the block reset is handled in any state, whatever its `seq`. -/
theorem blockResetAbandonsTheOperation : Obligations.BlockResetAbandonsTheOperation := fun s rest hs =>
  ⟨_, step_of_sees s .blockReset rest hs, rfl, rfl, rfl, rfl⟩

/-- The invariant at reset: `IDLE` with the reset line released, no inputs and no outputs. -/
theorem resetWith_inv {c : Config} (hv : c.valid = true) : (State.resetWith c).Inv where
  cfgValid := hv
  romHolds := rfl
  seqUsed := rfl
  placeOk := rfl
  delayOk := rfl
  resetLineOk := rfl
  lifecycleOk := rfl
  statusOk := Nat.zero_le 4
  ctlOk := nofun
  inboxFits := rfl
  outsFit := rfl
  traceFits := rfl

/-- Settles O51: the invariant at reset is `resetWith_inv`, and this block's configuration is a valid one. -/
theorem cleanLaunchMeetsTheInvariant : Obligations.CleanLaunchMeetsTheInvariant := by
  refine ⟨?_, Config.build.val, Config.build.ok, rfl⟩
  rintro s ⟨c, hv, rfl⟩
  exact resetWith_inv hv

end Sys2Proof.Machine
end
